-- ==== Sys2Proof/Word.lean ====
section
/-! DEFINITION. The data widths of the block (spec 00_scope.md R9, R12, R14): bytes, 16-bit words, the 12-bit
address field, register indices and keycodes. All quantities are unsigned (R12). -/

namespace Sys2Proof

/-- A general register, a timer, a byte of memory: 8 bits (R9 `XLEN`). -/
abbrev Byte := BitVec 8

/-- `I`, `pc`, a stack entry, an instruction word: 16 bits (R9). -/
abbrev Word := BitVec 16

/-- The 12-bit operand `nnn = w[11:0]` (R14). -/
abbrev Addr12 := BitVec 12

/-- A register index `0..15` (R21, R92: no index is invalid). -/
abbrev Reg := Fin 16

/-- The count operand `n = w[3:0]`, `0..15` (R92). -/
abbrev Nibble := Fin 16

/-- A keycode `0x0..0xF` (R17). -/
abbrev Keycode := BitVec 4

/-- `VF`, the register that doubles as the flag (R22). -/
abbrev vf : Reg := 15

/-- `w = mem[a] ++ mem[a+1]`: the byte at the lower address is the more significant (R61). -/
abbrev wordOfBytes (hi lo : Byte) : Word := hi ++ lo

end Sys2Proof
end

