-- ==== Sys2Proof/Syntax.lean ====
section
/-! DEFINITION. The instructions: the 35 kinds and the sentinel `UNKNOWN` (spec 30_encoding.md R99, R104), one
constructor per row of spec/opcode_table.json in its order, with the operand list of R101. -/

namespace Sys2Proof

/-- An instruction with the operands R101 gives its kind. -/
inductive Instr
  | cls
  | ret
  | sys (nnn : Addr12)
  | jp (nnn : Addr12)
  | call (nnn : Addr12)
  | seByte (x : Reg) (kk : Byte)
  | sneByte (x : Reg) (kk : Byte)
  | seReg (x y : Reg)
  | ldByte (x : Reg) (kk : Byte)
  | addByte (x : Reg) (kk : Byte)
  | ldReg (x y : Reg)
  | orReg (x y : Reg)
  | andReg (x y : Reg)
  | xorReg (x y : Reg)
  | addReg (x y : Reg)
  | subReg (x y : Reg)
  | shr (x : Reg)
  | subnReg (x y : Reg)
  | shl (x : Reg)
  | sneReg (x y : Reg)
  | ldI (nnn : Addr12)
  | jpV0 (nnn : Addr12)
  | rnd (x : Reg) (kk : Byte)
  | drw (x y : Reg) (n : Nibble)
  | skp (x : Reg)
  | sknp (x : Reg)
  | ldVxDt (x : Reg)
  | ldK (x : Reg)
  | ldDt (x : Reg)
  | ldSt (x : Reg)
  | addI (x : Reg)
  | ldF (x : Reg)
  | ldB (x : Reg)
  | stRegs (x : Reg)
  | ldRegs (x : Reg)
  | unknown
  deriving DecidableEq, Repr

end Sys2Proof
end

