-- ==== Sys2Proof/WellFormed.lean ====
section
/-! DEFINITION. Which instruction terms an encoding exists for. Every operand's range is already its type's (R92: no
register index is invalid); the one check left is that of R95: the words of `CLS` and `RET` are not `SYS`. -/

namespace Sys2Proof

/-- The low byte of a `SYS` operand is neither 0xE0 (`CLS`) nor 0xEE (`RET`) (R95). -/
def sysOperandOk (nnn : Addr12) : Bool :=
  nnn.setWidth 8 != 0xE0#8 && nnn.setWidth 8 != 0xEE#8

/-- An instruction some word decodes to. -/
def Instr.wf : Instr → Bool
  | .sys nnn => sysOperandOk nnn
  | .cls | .ret | .jp _ | .call _ | .seByte _ _ | .sneByte _ _ | .seReg _ _ | .ldByte _ _ | .addByte _ _
  | .ldReg _ _ | .orReg _ _ | .andReg _ _ | .xorReg _ _ | .addReg _ _ | .subReg _ _ | .shr _ | .subnReg _ _
  | .shl _ | .sneReg _ _ | .ldI _ | .jpV0 _ | .rnd _ _ | .drw _ _ _ | .skp _ | .sknp _ | .ldVxDt _ | .ldK _
  | .ldDt _ | .ldSt _ | .addI _ | .ldF _ | .ldB _ | .stRegs _ | .ldRegs _ | .unknown => true

end Sys2Proof
end

