-- ==== Sys2Proof/Decode.lean ====
section
/-! DEFINITION. The InstructionDecoder (spec 30_encoding.md): fields, classification, operand extraction, and after it
the encoder written from the same formats (R91) and the table of R99. Opcode numbers other than 0x00E0, 0x00EE and
0x1nnn are PRESUMED: the spec takes them from general knowledge (GK1, GK2; log entry 10). -/

namespace Sys2Proof

/-! ### Fields of a word (R14, R91, R92) -/

/-- The selector `w[15:12]`. -/
def opField (w : Word) : BitVec 4 := w.extractLsb' 12 4

/-- `x = w[11:8]`. -/
def xField (w : Word) : Reg := (w.extractLsb' 8 4).toFin

/-- `y = w[7:4]`. -/
def yField (w : Word) : Reg := (w.extractLsb' 4 4).toFin

/-- `n = w[3:0]`. -/
def nField (w : Word) : Nibble := (w.extractLsb' 0 4).toFin

/-- `kk = w[7:0]`. -/
def kkField (w : Word) : Byte := w.extractLsb' 0 8

/-- `nnn = w[11:0]`. -/
def nnnField (w : Word) : Addr12 := w.extractLsb' 0 12

/-! ### The decoder -/

/-- Selector 0x0, on the low byte (R95): `w[11:8]` is ignored for `CLS` and `RET`. -/
def decodeSel0 (w : Word) : Instr :=
  if kkField w = 0xE0#8 then .cls
  else if kkField w = 0xEE#8 then .ret
  else .sys (nnnField w)

/-- Selector 0x8, on the low nibble (R96); the `y` field of `SHR` and `SHL` is ignored. -/
def decodeSel8 (w : Word) : Instr :=
  match (nField w).val with
  | 0x0 => .ldReg (xField w) (yField w)
  | 0x1 => .orReg (xField w) (yField w)
  | 0x2 => .andReg (xField w) (yField w)
  | 0x3 => .xorReg (xField w) (yField w)
  | 0x4 => .addReg (xField w) (yField w)
  | 0x5 => .subReg (xField w) (yField w)
  | 0x6 => .shr (xField w)
  | 0x7 => .subnReg (xField w) (yField w)
  | 0xE => .shl (xField w)
  | _ => .unknown

/-- Selector 0xE, on the low byte (R97). -/
def decodeSelE (w : Word) : Instr :=
  if kkField w = 0x9E#8 then .skp (xField w)
  else if kkField w = 0xA1#8 then .sknp (xField w)
  else .unknown

/-- Selector 0xF, on the low byte (R98). -/
def decodeSelF (w : Word) : Instr :=
  if kkField w = 0x07#8 then .ldVxDt (xField w)
  else if kkField w = 0x0A#8 then .ldK (xField w)
  else if kkField w = 0x15#8 then .ldDt (xField w)
  else if kkField w = 0x18#8 then .ldSt (xField w)
  else if kkField w = 0x1E#8 then .addI (xField w)
  else if kkField w = 0x29#8 then .ldF (xField w)
  else if kkField w = 0x33#8 then .ldB (xField w)
  else if kkField w = 0x55#8 then .stRegs (xField w)
  else if kkField w = 0x65#8 then .ldRegs (xField w)
  else .unknown

/-- `classify` and `operandsFor` in one (R93, R94, R101): total on the 65536 words. -/
def decode (w : Word) : Instr :=
  match (opField w).toNat with
  | 0x0 => decodeSel0 w
  | 0x1 => .jp (nnnField w)
  | 0x2 => .call (nnnField w)
  | 0x3 => .seByte (xField w) (kkField w)
  | 0x4 => .sneByte (xField w) (kkField w)
  | 0x5 => .seReg (xField w) (yField w)
  | 0x6 => .ldByte (xField w) (kkField w)
  | 0x7 => .addByte (xField w) (kkField w)
  | 0x8 => decodeSel8 w
  | 0x9 => .sneReg (xField w) (yField w)
  | 0xA => .ldI (nnnField w)
  | 0xB => .jpV0 (nnnField w)
  | 0xC => .rnd (xField w) (kkField w)
  | 0xD => .drw (xField w) (yField w) (nField w)
  | 0xE => decodeSelE w
  | _ => decodeSelF w

/-- Why a byte sequence holds no instruction: fewer than two bytes. No word is ever rejected (R93, R100). -/
inductive DecodeReject
  | truncated
  deriving DecidableEq, Repr

/-- Decode the instruction at the head of a byte sequence, big-endian (R61, R90), and give the bytes that follow it. -/
def decodeBytes : List Byte → Except DecodeReject (Instr × List Byte)
  | hi :: lo :: rest => .ok (decode (wordOfBytes hi lo), rest)
  | _ => .error .truncated

/-- The decoder's answer for a word numbered as spec/opcode_table.json numbers it: its bytes are laid out as memory
holds them, the more significant first. -/
def decodeTableWord (nbits w : Nat) : Option Instr :=
  let word := w % 2 ^ nbits
  match decodeBytes [BitVec.ofNat 8 (word / 256), BitVec.ofNat 8 (word % 256)] with
  | .ok (i, _) => some i
  | .error _ => none

/-! ### The encoder (R91) -/

/-- Format NNN. -/
def packNNN (op : BitVec 4) (nnn : Addr12) : Word := op ++ nnn

/-- Format XKK; with a fixed low byte, format XSS. -/
def packXKK (op : BitVec 4) (x : Reg) (kk : Byte) : Word := packNNN op (BitVec.ofFin x ++ kk)

/-- Formats XY, XYS and XYN: the low nibble is the ignored bits, the sub-opcode or `n`. -/
def packXYN (op : BitVec 4) (x y : Reg) (n : BitVec 4) : Word :=
  packXKK op x (BitVec.ofFin y ++ n)

/-- A word of each instruction. Ignored bits (R100) are written 0, and `UNKNOWN` as 0x8008, one of its 9808 words
(DESIGN CHOICE, log entry 20). -/
def encode : Instr → Word
  | .cls => 0x00E0#16
  | .ret => 0x00EE#16
  | .sys nnn => packNNN 0x0#4 nnn
  | .jp nnn => packNNN 0x1#4 nnn
  | .call nnn => packNNN 0x2#4 nnn
  | .seByte x kk => packXKK 0x3#4 x kk
  | .sneByte x kk => packXKK 0x4#4 x kk
  | .seReg x y => packXYN 0x5#4 x y 0x0#4
  | .ldByte x kk => packXKK 0x6#4 x kk
  | .addByte x kk => packXKK 0x7#4 x kk
  | .ldReg x y => packXYN 0x8#4 x y 0x0#4
  | .orReg x y => packXYN 0x8#4 x y 0x1#4
  | .andReg x y => packXYN 0x8#4 x y 0x2#4
  | .xorReg x y => packXYN 0x8#4 x y 0x3#4
  | .addReg x y => packXYN 0x8#4 x y 0x4#4
  | .subReg x y => packXYN 0x8#4 x y 0x5#4
  | .shr x => packXYN 0x8#4 x 0 0x6#4
  | .subnReg x y => packXYN 0x8#4 x y 0x7#4
  | .shl x => packXYN 0x8#4 x 0 0xE#4
  | .sneReg x y => packXYN 0x9#4 x y 0x0#4
  | .ldI nnn => packNNN 0xA#4 nnn
  | .jpV0 nnn => packNNN 0xB#4 nnn
  | .rnd x kk => packXKK 0xC#4 x kk
  | .drw x y n => packXYN 0xD#4 x y (BitVec.ofFin n)
  | .skp x => packXKK 0xE#4 x 0x9E#8
  | .sknp x => packXKK 0xE#4 x 0xA1#8
  | .ldVxDt x => packXKK 0xF#4 x 0x07#8
  | .ldK x => packXKK 0xF#4 x 0x0A#8
  | .ldDt x => packXKK 0xF#4 x 0x15#8
  | .ldSt x => packXKK 0xF#4 x 0x18#8
  | .addI x => packXKK 0xF#4 x 0x1E#8
  | .ldF x => packXKK 0xF#4 x 0x29#8
  | .ldB x => packXKK 0xF#4 x 0x33#8
  | .stRegs x => packXKK 0xF#4 x 0x55#8
  | .ldRegs x => packXKK 0xF#4 x 0x65#8
  | .unknown => 0x8008#16

/-- The bytes of an instruction as memory holds them (R61). -/
def encodeBytes (i : Instr) : List Byte :=
  [(encode i).extractLsb' 8 8, (encode i).extractLsb' 0 8]

/-- The bits of a word that the decoder reads for an instruction; the others are those R100 lists as ignored
(`UNKNOWN` words have no form of their own, so none is listed for it). -/
def significantBits : Instr → Word
  | .cls | .ret => 0xF0FF#16
  | .seReg _ _ | .sneReg _ _ => 0xFFF0#16
  | .shr _ | .shl _ => 0xFF0F#16
  | .sys _ | .jp _ | .call _ | .seByte _ _ | .sneByte _ _ | .ldByte _ _ | .addByte _ _ | .ldReg _ _ | .orReg _ _
  | .andReg _ _ | .xorReg _ _ | .addReg _ _ | .subReg _ _ | .subnReg _ _ | .ldI _ | .jpV0 _ | .rnd _ _
  | .drw _ _ _ | .skp _ | .sknp _ | .ldVxDt _ | .ldK _ | .ldDt _ | .ldSt _ | .addI _ | .ldF _ | .ldB _
  | .stRegs _ | .ldRegs _ => 0xFFFF#16
  | .unknown => 0#16

/-! ### Kinds, the table of R99 and the operand lists of R101 -/

/-- The opcode kinds (R17, R93). -/
inductive Kind
  | cls | ret | sys | jp | call | seByte | sneByte | seReg | ldByte | addByte | ldReg | orReg | andReg | xorReg
  | addReg | subReg | shr | subnReg | shl | sneReg | ldI | jpV0 | rnd | drw | skp | sknp | ldVxDt | ldK | ldDt
  | ldSt | addI | ldF | ldB | stRegs | ldRegs | unknown
  deriving DecidableEq, Repr

/-- The kind of an instruction. -/
def Instr.kind : Instr → Kind
  | .cls => .cls
  | .ret => .ret
  | .sys _ => .sys
  | .jp _ => .jp
  | .call _ => .call
  | .seByte _ _ => .seByte
  | .sneByte _ _ => .sneByte
  | .seReg _ _ => .seReg
  | .ldByte _ _ => .ldByte
  | .addByte _ _ => .addByte
  | .ldReg _ _ => .ldReg
  | .orReg _ _ => .orReg
  | .andReg _ _ => .andReg
  | .xorReg _ _ => .xorReg
  | .addReg _ _ => .addReg
  | .subReg _ _ => .subReg
  | .shr _ => .shr
  | .subnReg _ _ => .subnReg
  | .shl _ => .shl
  | .sneReg _ _ => .sneReg
  | .ldI _ => .ldI
  | .jpV0 _ => .jpV0
  | .rnd _ _ => .rnd
  | .drw _ _ _ => .drw
  | .skp _ => .skp
  | .sknp _ => .sknp
  | .ldVxDt _ => .ldVxDt
  | .ldK _ => .ldK
  | .ldDt _ => .ldDt
  | .ldSt _ => .ldSt
  | .addI _ => .addI
  | .ldF _ => .ldF
  | .ldB _ => .ldB
  | .stRegs _ => .stRegs
  | .ldRegs _ => .ldRegs
  | .unknown => .unknown

/-- `classify(word)` (R93). -/
def classify (w : Word) : Kind := (decode w).kind

/-- The operands of an instruction, in the order of its assembler form (R101). -/
def Instr.operands : Instr → List Nat
  | .cls | .ret | .unknown => []
  | .sys nnn | .jp nnn | .call nnn | .ldI nnn | .jpV0 nnn => [nnn.toNat]
  | .seByte x kk | .sneByte x kk | .ldByte x kk | .addByte x kk | .rnd x kk => [x.val, kk.toNat]
  | .seReg x y | .sneReg x y | .ldReg x y | .orReg x y | .andReg x y | .xorReg x y | .addReg x y | .subReg x y
  | .subnReg x y => [x.val, y.val]
  | .shr x | .shl x | .skp x | .sknp x | .ldVxDt x | .ldK x | .ldDt x | .ldSt x | .addI x | .ldF x | .ldB x
  | .stRegs x | .ldRegs x => [x.val]
  | .drw x y n => [x.val, y.val, n.val]

/-- A row of the map of R99: `(w & mask) = bits` selects it. -/
structure OpcodeRow where
  kind : Kind
  bits : Word
  mask : Word
  deriving DecidableEq, Repr

/-- The map of R99 in the order a decoder tests it. -/
def opcodeMap : List OpcodeRow :=
  [⟨.cls, 0x00E0#16, 0xF0FF#16⟩, ⟨.ret, 0x00EE#16, 0xF0FF#16⟩, ⟨.sys, 0x0000#16, 0xF000#16⟩,
    ⟨.jp, 0x1000#16, 0xF000#16⟩, ⟨.call, 0x2000#16, 0xF000#16⟩, ⟨.seByte, 0x3000#16, 0xF000#16⟩,
    ⟨.sneByte, 0x4000#16, 0xF000#16⟩, ⟨.seReg, 0x5000#16, 0xF000#16⟩, ⟨.ldByte, 0x6000#16, 0xF000#16⟩,
    ⟨.addByte, 0x7000#16, 0xF000#16⟩] ++
  [⟨.ldReg, 0x8000#16, 0xF00F#16⟩, ⟨.orReg, 0x8001#16, 0xF00F#16⟩, ⟨.andReg, 0x8002#16, 0xF00F#16⟩,
    ⟨.xorReg, 0x8003#16, 0xF00F#16⟩, ⟨.addReg, 0x8004#16, 0xF00F#16⟩, ⟨.subReg, 0x8005#16, 0xF00F#16⟩,
    ⟨.shr, 0x8006#16, 0xF00F#16⟩, ⟨.subnReg, 0x8007#16, 0xF00F#16⟩, ⟨.shl, 0x800E#16, 0xF00F#16⟩] ++
  [⟨.sneReg, 0x9000#16, 0xF000#16⟩, ⟨.ldI, 0xA000#16, 0xF000#16⟩, ⟨.jpV0, 0xB000#16, 0xF000#16⟩,
    ⟨.rnd, 0xC000#16, 0xF000#16⟩, ⟨.drw, 0xD000#16, 0xF000#16⟩, ⟨.skp, 0xE09E#16, 0xF0FF#16⟩,
    ⟨.sknp, 0xE0A1#16, 0xF0FF#16⟩] ++
  [⟨.ldVxDt, 0xF007#16, 0xF0FF#16⟩, ⟨.ldK, 0xF00A#16, 0xF0FF#16⟩, ⟨.ldDt, 0xF015#16, 0xF0FF#16⟩,
    ⟨.ldSt, 0xF018#16, 0xF0FF#16⟩, ⟨.addI, 0xF01E#16, 0xF0FF#16⟩, ⟨.ldF, 0xF029#16, 0xF0FF#16⟩,
    ⟨.ldB, 0xF033#16, 0xF0FF#16⟩, ⟨.stRegs, 0xF055#16, 0xF0FF#16⟩, ⟨.ldRegs, 0xF065#16, 0xF0FF#16⟩,
    ⟨.unknown, 0x0000#16, 0x0000#16⟩]

/-- The first row of the map that a word matches (R99: first matching row wins; the last row matches every word). -/
def firstMatch (w : Word) : Option Kind :=
  (opcodeMap.find? fun r => w &&& r.mask == r.bits).map (·.kind)

/-- `operandsFor(kind, word)` (R101), from the fields of the word alone. -/
def operandsFor (k : Kind) (w : Word) : List Nat :=
  match k with
  | .cls | .ret | .unknown => []
  | .sys | .jp | .call | .ldI | .jpV0 => [(nnnField w).toNat]
  | .seByte | .sneByte | .ldByte | .addByte | .rnd => [(xField w).val, (kkField w).toNat]
  | .seReg | .sneReg | .ldReg | .orReg | .andReg | .xorReg | .addReg | .subReg | .subnReg =>
    [(xField w).val, (yField w).val]
  | .shr | .shl | .skp | .sknp | .ldVxDt | .ldK | .ldDt | .ldSt | .addI | .ldF | .ldB | .stRegs | .ldRegs =>
    [(xField w).val]
  | .drw => [(xField w).val, (yField w).val, (nField w).val]

/-- The assembler form of a kind (R99, R102). -/
def Kind.assemblerForm : Kind → String
  | .cls => "CLS"
  | .ret => "RET"
  | .sys => "SYS addr"
  | .jp => "JP addr"
  | .call => "CALL addr"
  | .seByte => "SE Vx,byte"
  | .sneByte => "SNE Vx,byte"
  | .seReg => "SE Vx,Vy"
  | .ldByte => "LD Vx,byte"
  | .addByte => "ADD Vx,byte"
  | .ldReg => "LD Vx,Vy"
  | .orReg => "OR Vx,Vy"
  | .andReg => "AND Vx,Vy"
  | .xorReg => "XOR Vx,Vy"
  | .addReg => "ADD Vx,Vy"
  | .subReg => "SUB Vx,Vy"
  | .shr => "SHR Vx"
  | .subnReg => "SUBN Vx,Vy"
  | .shl => "SHL Vx"
  | .sneReg => "SNE Vx,Vy"
  | .ldI => "LD I,addr"
  | .jpV0 => "JP V0,addr"
  | .rnd => "RND Vx,byte"
  | .drw => "DRW Vx,Vy,nibble"
  | .skp => "SKP Vx"
  | .sknp => "SKNP Vx"
  | .ldVxDt => "LD Vx,DT"
  | .ldK => "LD K,Vx"
  | .ldDt => "LD DT,Vx"
  | .ldSt => "LD ST,Vx"
  | .addI => "ADD I,Vx"
  | .ldF => "LD F,Vx"
  | .ldB => "LD B,Vx"
  | .stRegs => "LD [I],Vx"
  | .ldRegs => "LD Vx,[I]"
  | .unknown => "UNKNOWN"

end Sys2Proof
end

