-- ==== Sys2Proof/Machine/Flags.lean ====
section
/-! DEFINITION. Every value `VF` receives as a flag (spec 10_state.md R37, 43_alu.md R173): a flag write sets the whole
byte to 0x00 or 0x01 (R22). -/

namespace Sys2Proof.Machine

/-- The byte a flag write stores (R22). -/
def flagByte (c : Bool) : Byte := if c then 1 else 0

/-- `ADD Vx,Vy`: the unsigned sum exceeds 255 (R167). -/
def carryOf (p q : Byte) : Bool := decide (p.toNat + q.toNat > 255)

/-- `SUB`, `SUBN`: strictly greater, unsigned; equal operands give no flag (R168, R170). -/
def greaterThan (p q : Byte) : Bool := decide (p.toNat > q.toNat)

/-- `SHR`: bit 0 before the shift (R169). -/
def bitShiftedRight (p : Byte) : Bool := p.getLsbD 0

/-- `SHL`: bit 7 before the shift (R171). -/
def bitShiftedLeft (p : Byte) : Bool := p.getLsbD 7

end Sys2Proof.Machine
end

