-- ==== Sys2Proof/Config.lean ====
section
/-! DEFINITION. What is fixed for one instance of the hardware (spec 00_scope.md R8, R9): the fixed sizes as numbers,
and every parameter the spec leaves OPEN as an opaque constant with the constraint the spec puts on it and no value.
Nothing here is state (R8). The model reads the open parameters only through Machine/Params.lean. -/

namespace Sys2Proof.Config

/-- Bytes of memory, addresses `0..4095` (R9, R29). -/
abbrev memSize : Nat := 4096

/-- Load address of a program and reset value of `pc` (R9, R68). -/
abbrev progBase : Nat := 0x200

/-- What an out-of-bounds memory access does (R9 `OOB_POLICY`): the spec decides `abandon` and lets a model
instantiate `fault` (D5). The choice made is `Machine.oobPolicy`. -/
inductive OobPolicy
  | abandon
  | fault
  deriving DecidableEq, Repr

/-- The three font parameters, OPEN in R9, with the one constraint R9 puts on them. The field defaults exist only so
that Lean knows the type is inhabited; `font` below is opaque and takes none of them. -/
structure FontParams where
  base : Nat := 0
  glyphBytes : Nat := 5
  table : Nat → Byte
  fits : base + 16 * glyphBytes ≤ progBase := by decide
  deriving Inhabited

/-- `KEYBUF_CAP` (an integer at least 1), `SYMBOL` (a type, given by the numbers that code its members) and `KEYMAP` (a
partial function from symbols onto the 16 keycodes), all OPEN in R9, with the constraints R9 and D10 put on them. The
field defaults only show inhabitation, as for `FontParams`. -/
structure KeyParams where
  cap : Nat := 8
  cap_pos : 1 ≤ cap := by decide
  isSymbol : Nat → Bool := fun c => decide (c < 2 ^ 32)
  keymap : Nat → Option Keycode := fun c => some (BitVec.ofNat 4 c)
  onto : ∀ k : Keycode, ∃ c, isSymbol c = true ∧ keymap c = some k := by
    exact fun k => ⟨k.toNat, decide_eq_true (by omega), congrArg some (BitVec.ofNat_toNat 4 k |>.trans (by simp))⟩
  deriving Inhabited

/-- `FONT_BASE`, `FONT_GLYPH_BYTES`, `FONT_TABLE`: OPEN (R9, D8; log entry 2). -/
opaque font : FontParams

/-- `KEYBUF_CAP`, `SYMBOL`, `KEYMAP`: OPEN (R9, D9, D10; log entries 3 and 4). -/
opaque keys : KeyParams

/-- The byte on the `rnd` input in the `n`-th cycle since reset: a free value, constrained by no rule (R8, R172, D11;
log entry 1). -/
opaque rnd : Nat → Byte

/-- How the disassembler prints the address of an instruction: not given by the spec (R103, N14; log entry 9). -/
opaque disasmAddress : Nat → String

/-- The mnemonic string the disassembler prints for an assembler form: "the exact mnemonic strings are not given"
(R103, N14; log entry 9). -/
opaque disasmMnemonic : String → String

end Sys2Proof.Config

namespace Sys2Proof

/-- `SYMBOL`, the type of a raw symbol code as the host delivers it: OPEN (R9), so its members are the codes the opaque
parameter `Config.keys` admits. DESIGN CHOICE (log entry 4): a symbol is held by its number. -/
structure KeySymbol where
  code : Nat
  admitted : Config.keys.isSymbol code = true
  deriving DecidableEq, Repr

end Sys2Proof
end

