-- ==== Sys2Proof/Machine/Params.lean ====
section
/-! DEFINITION. The parameters of spec 00_scope.md R9 as the machine reads them. Each OPEN one is the opaque constant
of Config.lean; `OOB_POLICY` is the spec's decision. -/

namespace Sys2Proof.Machine

/-- `FONT_BASE` (R9). -/
def fontBase : Nat := Config.font.base

/-- `FONT_GLYPH_BYTES` (R9). -/
def fontGlyphBytes : Nat := Config.font.glyphBytes

/-- Byte `k` of `FONT_TABLE`, `0 <= k < 16*FONT_GLYPH_BYTES` (R9, R36). -/
def fontByte (k : Nat) : Byte := Config.font.table k

/-- `KEYBUF_CAP` (R9). -/
def keybufCap : Nat := Config.keys.cap

/-- `KEYMAP` (R9, R220). -/
def keymap (s : KeySymbol) : Option Keycode := Config.keys.keymap s.code

/-- `OOB_POLICY`. DESIGN CHOICE of the spec (D5, log entry 5): an out-of-bounds instruction is abandoned. -/
def oobPolicy : Config.OobPolicy := .abandon

/-- The reset contents of `mem` (R39, R280): `FONT_TABLE` at `FONT_BASE`, every other byte 0. The font lies below
`PROG_BASE` (R9), so the first test changes no value; it lets a byte of the program area be read without the font's
open parameters. -/
def resetByte (a : Nat) : Byte :=
  if Config.progBase ≤ a then 0
  else if fontBase ≤ a ∧ a < fontBase + 16 * fontGlyphBytes then fontByte (a - fontBase)
  else 0

end Sys2Proof.Machine
end

