-- ==== Sys2Proof/Machine/State.lean ====
section
/-! DEFINITION. The state of the block (spec 10_state.md R20: "exactly the following, and nothing else"), with the
model's own four fields for the ports (log entries 1 and 8), the reasons a step can stop, and the state after reset
(R39). -/

namespace Sys2Proof.Machine

/-- The four error kinds (60_exceptions.md R240). -/
inductive ErrKind
  | stackOverflow
  | stackUnderflow
  | outOfBounds
  | undefinedOpcode
  deriving DecidableEq, Repr

/-- The two externally visible states (R33). -/
inductive RunState
  | running
  | stopped
  deriving DecidableEq, Repr

/-- The per-cycle outputs of the last cycle performed (R11, R125, R126, R246): the pulses `present` and `buzz`, and the
error kind and address reported in that cycle, if any. -/
structure CycleOut where
  present : Bool
  buzz : Bool
  err : Option (ErrKind × Word)
  deriving DecidableEq, Repr

/-- Outputs at the start of a cycle: nothing presented, no tone, no error reported (R120). -/
def CycleOut.quiet : CycleOut := { present := false, buzz := false, err := none }

/-- `fb`: 32 rows of 64 pixels; bit `x` of row `y` is the pixel `(x, y)`, which R30 numbers `y*64 + x`. -/
abbrev Frame := Vector (BitVec 64) 32

/-- `mem` as the list of the bytes that differ from their reset contents, addresses rising (log entry 18); reading and
writing are `Memory.read` and `Memory.write` of Machine/Ops.lean. -/
abbrev Memory := List Host.Cell

/-- The state of the block. -/
structure State where
  v : Vector Byte 16
  i : Word
  pc : Word
  dt : Byte
  st : Byte
  stack : Vector Word 16
  sp : Fin 17
  mem : Memory
  fb : Frame
  dirty : Bool
  keyq : List KeySymbol
  run : RunState
  errKind : Option ErrKind
  errAddr : Word
  out : CycleOut
  rnd : Byte
  cycles : Nat
  deriving DecidableEq, Repr

/-- Why a step stops with a fault. -/
inductive Fault
  /-- An out-of-bounds access under `OOB_POLICY = fault` (R9, D5). Raised by `raiseError` only if
  `oobPolicy` is `fault`, which it is not in this model (log entry 5). Safe: nothing is claimed of the run after it. -/
  | outOfBounds
  deriving DecidableEq, Repr

/-- Why a step or a host event has no meaning. -/
inductive Refusal
  /-- An instruction whose arm of `exec` has no meaning yet. Raised by no arm of this model. Safe. -/
  | notModelled (mnemonic : String)
  /-- `LoadProgram` after the first `Tick`: "no rule here applies" (20_memory.md R75, 70_reset_and_hazards.md R285).
  Raised by the host event `loadProgram` alone, never by a step. Safe. -/
  | loadAfterFirstTick
  /-- `LoadProgram` while stopped: "all state survives unchanged until `Reset`" (60_exceptions.md R262), and the boot
  sequence has `Cancel` last (70_reset_and_hazards.md R285). Raised by the host event `loadProgram` alone, never by a
  step. Safe. -/
  | loadWhileStopped
  deriving DecidableEq, Repr

/-- The state after `Reset` (R39, R280). `mem` lists nothing: an unlisted byte reads as its reset contents, the font
table or 0 (`resetByte`). The values of `out`, `rnd` and `cycles` are DESIGN CHOICES (log entries 1 and 8). -/
def State.reset : State where
  v := Vector.replicate 16 0
  i := 0
  pc := 0x200
  dt := 0
  st := 0
  stack := Vector.replicate 16 0
  sp := 0
  mem := []
  fb := Vector.replicate 32 0
  dirty := false
  keyq := []
  run := .running
  errKind := none
  errAddr := 0
  out := CycleOut.quiet
  rnd := 0
  cycles := 0

end Sys2Proof.Machine
end

