-- ==== Sys2Proof/Machine/Ops.lean ====
section
/-! DEFINITION. The named operations over memory, registers, the call stack and the key queue, and raising an error
kind (spec 20_memory.md R66, 10_state.md R28, 47_keypad.md R221 and R222, 60_exceptions.md R240 to R252). -/

namespace Sys2Proof.Machine

/-! ### Memory -/

/-- The listed byte at an address. -/
def Memory.lookup : Memory → Nat → Option Byte
  | [], _ => none
  | (k, b) :: rest, a => if k = a then some b else Memory.lookup rest a

/-- `mem[a]`: the listed byte, else the reset contents (R63: "a read returns the last value written"). -/
def Memory.read (m : Memory) (a : Nat) : Byte := (Memory.lookup m a).getD (resetByte a)

/-- The memory with no byte listed at an address. -/
def Memory.unlist : Memory → Nat → Memory
  | [], _ => []
  | (k, c) :: rest, a => if k = a then Memory.unlist rest a else (k, c) :: Memory.unlist rest a

/-- The memory with one more byte listed, before the first greater address. -/
def Memory.list : Memory → Nat → Byte → Memory
  | [], a, b => [(a, b)]
  | (k, c) :: rest, a, b => if a < k then (a, b) :: (k, c) :: rest else (k, c) :: Memory.list rest a b

/-- `mem[a] <- b`, keeping the canonical form: a byte equal to the reset contents is not listed. -/
def Memory.write (m : Memory) (a : Nat) (b : Byte) : Memory :=
  if b = resetByte a then Memory.unlist m a else Memory.list (Memory.unlist m a) a b

/-- The listed addresses rise strictly from `lo`, exist (R29), and hold a byte other than their reset contents. -/
def Memory.wfFrom : Nat → Memory → Bool
  | _, [] => true
  | lo, (k, b) :: rest =>
    decide (lo ≤ k) && decide (k < Config.memSize) && (b != resetByte k) && Memory.wfFrom (k + 1) rest

/-- The canonical form of a memory. -/
def Memory.wf (m : Memory) : Bool := Memory.wfFrom 0 m

/-- Writes in ascending address order (R62, R66). -/
def Memory.writeAll : Memory → Nat → List Byte → Memory
  | m, _, [] => m
  | m, a, b :: bs => Memory.writeAll (Memory.write m a b) (a + 1) bs

/-- The range check of R66: a range of `n` bytes is out of bounds when it is not empty and `addr + n > 4096`. -/
def outOfRange (addr n : Nat) : Bool := decide (n ≠ 0) && decide (addr + n > Config.memSize)

/-- `MemRead(addr, n)` (R66); `none` is the out-of-bounds raise. -/
def memRead (m : Memory) (addr n : Nat) : Option (List Byte) :=
  if outOfRange addr n then none else some ((List.range n).map fun k => Memory.read m (addr + k))

/-- `MemWrite(addr, n, bytes)` with `n` the length of `bytes` (R66); `none` is the out-of-bounds raise. The whole range
is checked before any byte moves. -/
def memWrite (m : Memory) (addr : Nat) (bytes : List Byte) : Option Memory :=
  if outOfRange addr bytes.length then none else some (Memory.writeAll m addr bytes)

/-! ### Registers -/

/-- `V[r]`. -/
def State.getV (s : State) (r : Reg) : Byte := s.v[r]

/-- `V[r] <- b`; none is hard-wired (R21). -/
def State.setV (s : State) (r : Reg) (b : Byte) : State := { s with v := s.v.set r b }

/-- `pc <- target` (R13). -/
def State.setPc (s : State) (w : Word) : State := { s with pc := w }

/-- `I <- value`. -/
def State.setI (s : State) (w : Word) : State := { s with i := w }

/-- `DT <- value`. -/
def State.setDt (s : State) (b : Byte) : State := { s with dt := b }

/-- `ST <- value`. -/
def State.setSt (s : State) (b : Byte) : State := { s with st := b }

/-- The memory after a write. -/
def State.setMem (s : State) (m : Memory) : State := { s with mem := m }

/-- The key queue after a pop or a push. -/
def State.setKeyq (s : State) (q : List KeySymbol) : State := { s with keyq := q }

/-- The stack after a push or a pop. -/
def State.setStack (s : State) (stack : Vector Word 16) (sp : Fin 17) : State := { s with stack := stack, sp := sp }

/-- `for k in 0..: V[k] <- bytes[k]`; registers beyond the list keep their value (R185). -/
def State.loadV (s : State) (bytes : List Byte) : State :=
  { s with v := Vector.ofFn fun r : Fin 16 => (bytes[r.val]?).getD s.v[r] }

/-- `pc <- (pc + 2) mod 65536` if the condition holds: the skip of 42_skips.md and 47_keypad.md. -/
def State.skipIf (s : State) (c : Bool) : State := if c then s.setPc (s.pc + 2) else s

/-! ### The call stack (R28) -/

/-- Push: store at `stack[sp]`, then increment `sp`; `none` when the stack is full. -/
def State.push (s : State) (w : Word) : Option State :=
  if h : s.sp.val < 16 then
    some (s.setStack (s.stack.set s.sp.val w h) ⟨s.sp.val + 1, by omega⟩)
  else none

/-- Pop: decrement `sp`, then read `stack[sp]`; `none` when the stack is empty. -/
def State.pop (s : State) : Option (Word × State) :=
  if h : s.sp.val ≠ 0 then
    some (s.stack[s.sp.val - 1]'(by have := s.sp.isLt; omega),
      s.setStack s.stack ⟨s.sp.val - 1, by have := s.sp.isLt; omega⟩)
  else none

/-! ### The key queue -/

/-- `readKey` over a symbol type and its map (R222): pops the oldest symbol, discarding unmapped ones; gives the keycode found, if
any, and the queue left. -/
def readKeyFrom {α : Type} (km : α → Option Keycode) : List α → Option Keycode × List α
  | [] => (none, [])
  | s :: q =>
    match km s with
    | some k => (some k, q)
    | none => readKeyFrom km q

/-- `readKey()` with this hardware's `KEYMAP`. -/
def State.readKey (s : State) : Option Keycode × State :=
  let r := readKeyFrom keymap s.keyq
  (r.1, s.setKeyq r.2)

/-- `push(symbols)` with a capacity (R221): append, then keep the last `cap` elements. -/
def pushSymbols {α : Type} (cap : Nat) (q symbols : List α) : List α :=
  let all := q ++ symbols
  all.drop (all.length - cap)

/-! ### Error kinds -/

/-- The code of a kind (R240; the numbers are the spec's choice D3, log entry 17). -/
def ErrKind.code : ErrKind → BitVec 3
  | .stackOverflow => 1
  | .stackUnderflow => 2
  | .outOfBounds => 3
  | .undefinedOpcode => 4

/-- The code of the latch: 0 means no error (R240). -/
def errCode : Option ErrKind → BitVec 3
  | none => 0
  | some k => k.code

/-- The fatal kinds (R240). -/
def ErrKind.isFatal : ErrKind → Bool
  | .stackOverflow | .stackUnderflow => true
  | .outOfBounds | .undefinedOpcode => false

/-- `a`, the fetch address of the instruction in dispatch: `pc` was advanced by 2 before dispatch (R25, R122). -/
def State.fetchAddr (s : State) : Word := s.pc - 2

/-- Show a kind and the fetch address on the error outputs for this cycle (R246). -/
def State.report (s : State) (k : ErrKind) : State :=
  { s with out := { s.out with err := some (k, s.fetchAddr) } }

/-- The latch and the stop of a fatal kind (R250); there is no handler, no saved state and no return (R251, R253). -/
def State.stopFatally (s : State) (k : ErrKind) : State :=
  { s with run := .stopped, errKind := some k, errAddr := s.fetchAddr }

/-- `raise <Kind>(a)`: the one operation every error goes through (R13, R246, R250, R252). A fatal kind reports, latches
and stops; a non-fatal kind reports and changes nothing else, the instruction being abandoned; an out-of-bounds access
is a fault instead under `OOB_POLICY = fault`. -/
def raiseError (k : ErrKind) (s : State) : Host.Outcome State Fault Refusal :=
  match k with
  | .stackOverflow | .stackUnderflow => .next ((s.report k).stopFatally k)
  | .undefinedOpcode => .next (s.report k)
  | .outOfBounds =>
    match oobPolicy with
    | .abandon => .next (s.report k)
    | .fault => .fault .outOfBounds

end Sys2Proof.Machine
end

