-- ==== Sys2Proof/Machine/Alu.lean ====
section
/-! DEFINITION. Register loads, arithmetic, logic, shifts and `RND` (spec 43_alu.md R160 to R173). Operands are read
from the state on entry; of two writes the later wins, in the order the rule lists them (R160, log entry 12). -/

namespace Sys2Proof.Machine

/-- `LD Vx,byte` (R161). -/
def execLdByte (x : Reg) (kk : Byte) (s : State) : Host.Outcome State Fault Refusal := .next (s.setV x kk)

/-- `ADD Vx,byte` (R162): wraps, no flag. -/
def execAddByte (x : Reg) (kk : Byte) (s : State) : Host.Outcome State Fault Refusal :=
  .next (s.setV x (s.getV x + kk))

/-- `LD Vx,Vy` (R163). -/
def execLdReg (x y : Reg) (s : State) : Host.Outcome State Fault Refusal := .next (s.setV x (s.getV y))

/-- `OR Vx,Vy` (R164). -/
def execOrReg (x y : Reg) (s : State) : Host.Outcome State Fault Refusal := .next (s.setV x (s.getV x ||| s.getV y))

/-- `AND Vx,Vy` (R165). -/
def execAndReg (x y : Reg) (s : State) : Host.Outcome State Fault Refusal := .next (s.setV x (s.getV x &&& s.getV y))

/-- `XOR Vx,Vy` (R166). -/
def execXorReg (x y : Reg) (s : State) : Host.Outcome State Fault Refusal := .next (s.setV x (s.getV x ^^^ s.getV y))

/-- `ADD Vx,Vy` (R167): `V[x]`, then `VF`. -/
def execAddReg (x y : Reg) (s : State) : Host.Outcome State Fault Refusal :=
  .next ((s.setV x (s.getV x + s.getV y)).setV vf (flagByte (carryOf (s.getV x) (s.getV y))))

/-- `SUB Vx,Vy` (R168): `VF`, then `V[x]`. -/
def execSubReg (x y : Reg) (s : State) : Host.Outcome State Fault Refusal :=
  .next ((s.setV vf (flagByte (greaterThan (s.getV x) (s.getV y)))).setV x (s.getV x - s.getV y))

/-- `SHR Vx` (R169): `VF`, then `V[x]`; `V[y]` is not read. -/
def execShr (x : Reg) (s : State) : Host.Outcome State Fault Refusal :=
  .next ((s.setV vf (flagByte (bitShiftedRight (s.getV x)))).setV x (s.getV x >>> 1))

/-- `SUBN Vx,Vy` (R170): `VF`, then `V[x]`. -/
def execSubnReg (x y : Reg) (s : State) : Host.Outcome State Fault Refusal :=
  .next ((s.setV vf (flagByte (greaterThan (s.getV y) (s.getV x)))).setV x (s.getV y - s.getV x))

/-- `SHL Vx` (R171): `VF`, then `V[x]`; `V[y]` is not read. -/
def execShl (x : Reg) (s : State) : Host.Outcome State Fault Refusal :=
  .next ((s.setV vf (flagByte (bitShiftedLeft (s.getV x)))).setV x (s.getV x <<< 1))

/-- `RND Vx,byte` (R172): `rnd & kk`, with `rnd` the byte on the input port in this cycle, a free value. -/
def execRnd (x : Reg) (kk : Byte) (s : State) : Host.Outcome State Fault Refusal := .next (s.setV x (s.rnd &&& kk))

end Sys2Proof.Machine
end

