-- ==== Sys2Proof/Machine/Operands.lean ====
section
/-! DEFINITION. The operand forms (spec 30_encoding.md R92, 44_index_and_memory.md): how an operand field becomes the
value an instruction uses. `V[x]` and `V[y]` are `State.getV`. -/

namespace Sys2Proof.Machine

/-- `zext_16(nnn)` (R92, R141, R142, R180). -/
def zextAddr (nnn : Addr12) : Word := nnn.setWidth 16

/-- `zext_16(V[x])` (R143, R181). -/
def zextByte (b : Byte) : Word := b.setWidth 16

/-- `zext_8(k)` (R223, R224, R225). -/
def zextKey (k : Keycode) : Byte := k.setWidth 8

/-- The data address of every memory instruction: `I`, never reduced (R66). -/
def State.dataAddr (s : State) : Nat := s.i.toNat

/-- `[V[0], V[1], ..., V[x]]` (R184). -/
def State.regsTo (s : State) (x : Reg) : List Byte := s.v.toList.take (x.val + 1)

/-- The three decimal digits of a byte, hundreds first (R183). -/
def bcdDigits (v : Byte) : List Byte :=
  [BitVec.ofNat 8 (v.toNat / 100), BitVec.ofNat 8 (v.toNat / 10 % 10), BitVec.ofNat 8 (v.toNat % 10)]

/-- `(base + glyph * V[x]) mod 65536`, all 8 bits of `V[x]` (R182). -/
def glyphAddr (base glyph : Nat) (v : Byte) : Word := BitVec.ofNat 16 (base + glyph * v.toNat)

end Sys2Proof.Machine
end

