-- ==== Sys2Proof/Machine/Control.lean ====
section
/-! DEFINITION. Control transfer (spec 41_control_flow.md R140 to R143). On entry `pc` is the fetch address plus 2. -/

namespace Sys2Proof.Machine

/-- `RET` (R140): pop into `pc`; `StackUnderflow` when the stack is empty. -/
def execRet (s : State) : Host.Outcome State Fault Refusal :=
  match s.pop with
  | some (w, t) => .next (t.setPc w)
  | none => raiseError .stackUnderflow s

/-- `JP addr` (R141). -/
def execJp (nnn : Addr12) (s : State) : Host.Outcome State Fault Refusal := .next (s.setPc (zextAddr nnn))

/-- `CALL addr` (R142): push the advanced `pc`, then jump; `StackOverflow` when the stack is full. -/
def execCall (nnn : Addr12) (s : State) : Host.Outcome State Fault Refusal :=
  match s.push s.pc with
  | some t => .next (t.setPc (zextAddr nnn))
  | none => raiseError .stackOverflow s

/-- `JP V0,addr` (R143): always `V[0]`, sum modulo 65536, not masked. -/
def execJpV0 (nnn : Addr12) (s : State) : Host.Outcome State Fault Refusal :=
  .next (s.setPc (zextByte (s.getV 0) + zextAddr nnn))

end Sys2Proof.Machine
end

