-- ==== Sys2Proof/Machine/Framebuffer.lean ====
section
/-! DEFINITION. The Framebuffer component (spec 45_display.md R190 to R194): pixel addressing with per-pixel wrap,
`clear`, `drawSprite` and `getPixel`. -/

namespace Sys2Proof.Machine

/-- The pixel addressed by an unbounded coordinate pair (R191). -/
def pixelAt (fb : Frame) (cx cy : Nat) : Bool :=
  (fb[cy % 32]'(Nat.mod_lt _ (by decide))).getLsbD (cx % 64)

/-- Toggle the pixel addressed by an unbounded coordinate pair (R191, R193). -/
def togglePixel (fb : Frame) (cx cy : Nat) : Frame :=
  fb.set (cy % 32) ((fb[cy % 32]'(Nat.mod_lt _ (by decide))) ^^^ (1#64 <<< (cx % 64))) (Nat.mod_lt _ (by decide))

/-- `fb[k]`, `0 <= k <= 2047`, row-major (R30). -/
def frameBit (fb : Frame) (k : Nat) : Bool := pixelAt fb (k % 64) (k / 64)

/-- A draw in progress: the frame so far and whether a toggle has collided. -/
structure Plot where
  fb : Frame
  hit : Bool
  deriving DecidableEq, Repr

/-- One sprite bit: a 0 leaves its pixel; a 1 records a collision with a lit pixel and toggles it (R193). -/
def plotBit (bit : Bool) (cx cy : Nat) (p : Plot) : Plot :=
  if bit then { fb := togglePixel p.fb cx cy, hit := p.hit || pixelAt p.fb cx cy } else p

/-- One sprite row at line `y`: bit 7 is the leftmost pixel (R193). -/
def plotRow (row : Byte) (x y : Nat) (p : Plot) : Plot :=
  (List.range 8).foldl (fun p b => plotBit (row.getLsbD (7 - b)) (x + b) y p) p

/-- The rows of a sprite from line `y` down (R193). -/
def plotRows : List Byte → Nat → Nat → Plot → Plot
  | [], _, _, p => p
  | row :: rows, x, y, p => plotRows rows x (y + 1) (plotRow row x y p)

/-- `clear()` (R192): every pixel off, `dirty` set even if none was on. -/
def State.clearFrame (s : State) : State := { s with fb := Vector.replicate 32 0, dirty := true }

/-- `drawSprite(rows, x, y) -> collision` (R193): `dirty` is set unconditionally. -/
def State.drawSprite (s : State) (rows : List Byte) (x y : Nat) : Bool × State :=
  let p := plotRows rows x y { fb := s.fb, hit := false }
  (p.hit, { s with fb := p.fb, dirty := true })

/-- `getPixel(x, y)` (R194): changes nothing. -/
def State.getPixel (s : State) (x y : Nat) : Bool := pixelAt s.fb x y

end Sys2Proof.Machine
end

