-- ==== Sys2Proof/Machine/Display.lean ====
section
/-! DEFINITION. `CLS` and `DRW` (spec 45_display.md R195, R196). -/

namespace Sys2Proof.Machine

/-- `CLS` (R195). -/
def execCls (s : State) : Host.Outcome State Fault Refusal := .next s.clearFrame

/-- `DRW Vx,Vy,nibble` (R196): the coordinates are read before `VF` is written; out of bounds nothing is drawn. -/
def execDrw (x y : Reg) (n : Nibble) (s : State) : Host.Outcome State Fault Refusal :=
  match memRead s.mem s.dataAddr n.val with
  | some rows =>
    let d := s.drawSprite rows (s.getV x).toNat (s.getV y).toNat
    .next (d.2.setV vf (flagByte d.1))
  | none => raiseError .outOfBounds s

end Sys2Proof.Machine
end

