-- ==== Sys2Proof/Machine/Index.lean ====
section
/-! DEFINITION. The index register and memory transfer (spec 44_index_and_memory.md R180 to R185). `I` is never
changed by a transfer, and an out-of-bounds range moves no byte (R66). -/

namespace Sys2Proof.Machine

/-- `LD I,addr` (R180). -/
def execLdI (nnn : Addr12) (s : State) : Host.Outcome State Fault Refusal := .next (s.setI (zextAddr nnn))

/-- `ADD I,Vx` (R181): modulo 65536, no flag. -/
def execAddI (x : Reg) (s : State) : Host.Outcome State Fault Refusal :=
  .next (s.setI (s.i + zextByte (s.getV x)))

/-- `LD F,Vx` (R182). -/
def execLdF (x : Reg) (s : State) : Host.Outcome State Fault Refusal :=
  .next (s.setI (glyphAddr fontBase fontGlyphBytes (s.getV x)))

/-- `LD B,Vx` (R183). -/
def execLdB (x : Reg) (s : State) : Host.Outcome State Fault Refusal :=
  match memWrite s.mem s.dataAddr (bcdDigits (s.getV x)) with
  | some m => .next (s.setMem m)
  | none => raiseError .outOfBounds s

/-- `LD [I],Vx` (R184). -/
def execStRegs (x : Reg) (s : State) : Host.Outcome State Fault Refusal :=
  match memWrite s.mem s.dataAddr (s.regsTo x) with
  | some m => .next (s.setMem m)
  | none => raiseError .outOfBounds s

/-- `LD Vx,[I]` (R185). -/
def execLdRegs (x : Reg) (s : State) : Host.Outcome State Fault Refusal :=
  match memRead s.mem s.dataAddr (x.val + 1) with
  | some bytes => .next (s.loadV bytes)
  | none => raiseError .outOfBounds s

end Sys2Proof.Machine
end

