-- ==== Sys2Proof/Machine/Keypad.lean ====
section
/-! DEFINITION. The key instructions (spec 47_keypad.md R223 to R225). Each consumes what `readKey` consumes. -/

namespace Sys2Proof.Machine

/-- `LD K,Vx` (R223): the key into `V[x]`, or `pc` back to this instruction. -/
def execLdK (x : Reg) (s : State) : Host.Outcome State Fault Refusal :=
  match s.readKey with
  | (some k, t) => .next (t.setV x (zextKey k))
  | (none, t) => .next (t.setPc (t.pc - 2))

/-- `SKP Vx` (R224): skip if a key was read and equals `V[x]`, all 8 bits. -/
def execSkp (x : Reg) (s : State) : Host.Outcome State Fault Refusal :=
  match s.readKey with
  | (some k, t) => .next (t.skipIf (zextKey k == s.getV x))
  | (none, t) => .next t

/-- `SKNP Vx` (R225): skip if no key was read or it differs from `V[x]`. -/
def execSknp (x : Reg) (s : State) : Host.Outcome State Fault Refusal :=
  match s.readKey with
  | (some k, t) => .next (t.skipIf (zextKey k != s.getV x))
  | (none, t) => .next (t.skipIf true)

end Sys2Proof.Machine
end

