-- ==== Sys2Proof/Machine/Skips.lean ====
section
/-! DEFINITION. The conditional skips (spec 42_skips.md R150 to R153). -/

namespace Sys2Proof.Machine

/-- `SE Vx,byte` (R150). -/
def execSeByte (x : Reg) (kk : Byte) (s : State) : Host.Outcome State Fault Refusal :=
  .next (s.skipIf (s.getV x == kk))

/-- `SNE Vx,byte` (R151). -/
def execSneByte (x : Reg) (kk : Byte) (s : State) : Host.Outcome State Fault Refusal :=
  .next (s.skipIf (s.getV x != kk))

/-- `SE Vx,Vy` (R152). -/
def execSeReg (x y : Reg) (s : State) : Host.Outcome State Fault Refusal :=
  .next (s.skipIf (s.getV x == s.getV y))

/-- `SNE Vx,Vy` (R153). -/
def execSneReg (x y : Reg) (s : State) : Host.Outcome State Fault Refusal :=
  .next (s.skipIf (s.getV x != s.getV y))

end Sys2Proof.Machine
end

