-- ==== Sys2Proof/Machine/System.lean ====
section
/-! DEFINITION. `SYS addr` and `UNKNOWN` (spec 40_cycle_and_system.md R130, R131). A meaning is step 3 of the cycle
(R120): on entry the timers are decremented and `pc` is the fetch address plus 2. -/

namespace Sys2Proof.Machine

/-- `SYS addr`: nothing (R130). -/
def execSys (_nnn : Addr12) (s : State) : Host.Outcome State Fault Refusal := .next s

/-- `UNKNOWN`: `raise UndefinedOpcode(a)`, non-fatal, no state change (R131). -/
def execUnknown (s : State) : Host.Outcome State Fault Refusal := raiseError .undefinedOpcode s

end Sys2Proof.Machine
end

