-- ==== Sys2Proof/Machine/Timers.lean ====
section
/-! DEFINITION. The timers (spec 40_cycle_and_system.md R121, 46_timers.md R210 to R212). -/

namespace Sys2Proof.Machine

/-- A timer at the start of a cycle: one less, and never below 0 (R27, R121). -/
def decTimer (t : Byte) : Byte := if t = 0 then 0 else t - 1

/-- Step 1 of the cycle, the two timers independently (R121). -/
def State.tickTimers (s : State) : State := { s with dt := decTimer s.dt, st := decTimer s.st }

/-- `LD Vx,DT` (R210). -/
def execLdVxDt (x : Reg) (s : State) : Host.Outcome State Fault Refusal := .next (s.setV x s.dt)

/-- `LD DT,Vx` (R211). -/
def execLdDt (x : Reg) (s : State) : Host.Outcome State Fault Refusal := .next (s.setDt (s.getV x))

/-- `LD ST,Vx` (R212). -/
def execLdSt (x : Reg) (s : State) : Host.Outcome State Fault Refusal := .next (s.setSt (s.getV x))

end Sys2Proof.Machine
end

