-- ==== Sys2Proof/Machine/Cycle.lean ====
section
/-! DEFINITION. The cycle (spec 40_cycle_and_system.md R120): steps 1, 2, 4 and 5 around the dispatch of step 3. -/

namespace Sys2Proof.Machine

/-- The outputs of the cycle start quiet (R120), the input port `rnd` is sampled, and the cycle is counted (log
entry 1). -/
def State.beginCycle (s : State) (rnd : Byte) : State :=
  { s with out := CycleOut.quiet, rnd := rnd, cycles := s.cycles + 1 }

/-- `pc <- (pc + 2) mod 65536`, before dispatch (R122). -/
def State.advancePc (s : State) : State := s.setPc (s.pc + 2)

/-- The state an instruction is dispatched in: after steps 1 and 2. -/
def State.dispatchState (s : State) (rnd : Byte) : State := ((s.beginCycle rnd).tickTimers).advancePc

/-- The bytes fetched at `pc`; `none` when `pc > 4094` (R67, R122). -/
def State.fetchBytes (s : State) : Option (List Byte) := memRead s.mem s.pc.toNat 2

/-- The instruction fetched at `pc`, big-endian (R61); `none` when `pc > 4094`. -/
def State.fetch (s : State) : Option Instr :=
  match s.fetchBytes with
  | none => none
  | some bytes =>
    match decodeBytes bytes with
    | .ok (i, _) => some i
    | .error _ => none

/-- Steps 4 and 5 (R125, R126): `present` if the frame is dirty, which clears `dirty`; `buzz` while `ST > 0`. After a
fatal kind they are not performed (R120, R250). -/
def State.endCycle (s : State) : State :=
  match s.run with
  | .stopped => s
  | .running => { s with out := { s.out with present := s.dirty, buzz := s.st != 0 }, dirty := false }

/-- Steps 4 and 5 on the outcome of step 3. -/
def finishCycle : Host.Outcome State Fault Refusal → Host.Outcome State Fault Refusal
  | .next s => .next s.endCycle
  | .fault r => .fault r
  | .refused r => .refused r

/-- `Cycle(rnd)` (R120), for a running block. -/
def cycle (rnd : Byte) (s : State) : Host.Outcome State Fault Refusal :=
  match s.fetch with
  | some i => finishCycle (exec i (s.dispatchState rnd))
  | none => finishCycle (raiseError .outOfBounds (s.dispatchState rnd))

/-- A `tick` (R33, R127): one cycle while running, nothing at all while stopped. -/
def tick (rnd : Byte) (s : State) : Host.Outcome State Fault Refusal :=
  match s.run with
  | .running => cycle rnd s
  | .stopped => .next s

/-- The two bytes of a word stored big-endian at an address (R61). -/
def storeWord (m : Memory) (a : Nat) (w : Word) : Memory :=
  Memory.writeAll m a [w.extractLsb' 8 8, w.extractLsb' 0 8]

/-- Where the next instruction is fetched: `pc`, or `PROG_BASE` when no word can be fetched at `pc` (log entry 19). -/
def State.fetchPlace (s : State) : Word := if s.pc.toNat ≤ 4094 then s.pc else 0x200

end Sys2Proof.Machine
end

