-- ==== Sys2Proof/Machine/Step.lean ====
section
/-! DEFINITION. One step of the machine: one `Tick` (spec 00_scope.md R15), its `rnd` the free draw of that cycle
(log entry 1). -/

namespace Sys2Proof.Machine

/-- One `Tick(rnd)`, with `rnd` the free value of this cycle. -/
def step (s : State) : Host.Outcome State Fault Refusal := tick (Config.rnd s.cycles) s

/-- `s` with an instruction word, numbered as spec/opcode_table.json numbers it, where the next step fetches: stored at
`pc`, the block running, and `pc` at `PROG_BASE` only when no word can be fetched at `pc` (log entry 19). -/
def State.withFetchWord (s : State) (nbits w : Nat) : State :=
  { s with
    run := .running
    pc := s.fetchPlace
    mem := storeWord s.mem s.fetchPlace.toNat (BitVec.ofNat 16 (w % 2 ^ nbits)) }

end Sys2Proof.Machine
end

