-- ==== Sys2Proof/Machine/Ports.lean ====
section
/-! DEFINITION. The output ports (spec 00_scope.md R11; 60_exceptions.md R246; 10_state.md R33) as functions of the
state after the last cycle. -/

namespace Sys2Proof.Machine

/-- `running` (R11, R33). -/
def State.runningPort (s : State) : Bool := s.run == .running

/-- `present`: the pulse of the last cycle, and 0 while stopped (R33, R125). -/
def State.presentPort (s : State) : Bool := s.runningPort && s.out.present

/-- `buzz`: the signal of the last cycle, and 0 while stopped (R33, R126). -/
def State.buzzPort (s : State) : Bool := s.runningPort && s.out.buzz

/-- `fatal`: 1 from a fatal error until `Reset` (R246). -/
def State.fatalPort (s : State) : Bool := s.errKind.isSome

/-- The error shown: the one-cycle report while running, the latch while stopped (R34, R246). -/
def State.shownError (s : State) : Option (ErrKind × Word) :=
  if s.runningPort then s.out.err else s.errKind.map fun k => (k, s.errAddr)

/-- `err_kind`: the code shown, 0 when there is none (R240, R246). -/
def State.errKindPort (s : State) : BitVec 3 := errCode (s.shownError.map (·.1))

/-- `err_addr`: the address shown, 0 when there is none: the port shows its register (R34, reset value 0 in R39), and
after a report both ports "return to 0 at the next cycle" (R246). -/
def State.errAddrPort (s : State) : Word := (s.shownError.map (·.2)).getD 0

/-- `fb`: bit `k` of the port, row-major (R11, R30); reading it changes nothing. -/
def State.fbPort (s : State) (k : Nat) : Bool := frameBit s.fb k

end Sys2Proof.Machine
end

