-- ==== Sys2Proof/Machine/HostEvents.lean ====
section
/-! DEFINITION. The host's events (spec 00_scope.md R7, R10, R15; 70_reset_and_hazards.md R280 to R287): everything the
outside can do to the block, each atomic. -/

namespace Sys2Proof.Machine

/-- The events of R15. -/
inductive HostEvent
  | reset
  | loadProgram (bytes : List Byte)
  | tick (rnd : Byte)
  | cancel
  | keyPush (symbols : List KeySymbol)
  deriving DecidableEq, Repr

/-- The count of bytes `LoadProgram` copies and returns (R286): at most 3584 fit. -/
def loadCount (bytes : List Byte) : Nat := min bytes.length (Config.memSize - Config.progBase)

/-- `LoadProgram(bytes)` (R286): the bytes that fit, verbatim from `PROG_BASE`; nothing else changes. -/
def State.loadProgram (s : State) (bytes : List Byte) : State :=
  s.setMem (Memory.writeAll s.mem Config.progBase (bytes.take (loadCount bytes)))

/-- `KeyPush(symbols)` (R221): changes only `keyq`, also while stopped (R258). -/
def State.keyPush (s : State) (symbols : List KeySymbol) : State :=
  s.setKeyq (pushSymbols keybufCap s.keyq symbols)

/-- `Cancel` (R258): a running block stops, and nothing else changes. -/
def State.cancel (s : State) : State := { s with run := .stopped }

/-- The event that inputs pending together at a cycle boundary amount to (R248): `Reset` overrides everything, and a
`tick` pending with a `Cancel` is not processed. `KeyPush` is atomic and may fall on either side (R7). -/
def pendingEvent (rst cancel tick : Bool) (rnd : Byte) : Option HostEvent :=
  if rst then some .reset
  else if cancel then some .cancel
  else if tick then some (.tick rnd)
  else none

/-- The effect of one event. `LoadProgram` is refused while stopped, where all state survives unchanged until `Reset`
(R262), and after the first `Tick`, where no rule applies (R75, R285).
DESIGN CHOICE of the model (log entry 16), two points the spec leaves open:
the first `Tick` is the first that performs a cycle (`cycles` counts those), so a tick ignored while stopped is none;
a second `LoadProgram` before the first `Tick` is accepted and overlays the first image. -/
def hostStep (e : HostEvent) (s : State) : Host.Outcome State Fault Refusal :=
  match e with
  | .reset => .next State.reset
  | .loadProgram bytes =>
    match s.run with
    | .stopped => .refused .loadWhileStopped
    | .running => if s.cycles = 0 then .next (s.loadProgram bytes) else .refused .loadAfterFirstTick
  | .tick rnd => Machine.tick rnd s
  | .cancel => .next s.cancel
  | .keyPush symbols => .next (s.keyPush symbols)

/-- A sequence of events, stopping at the first fault or refusal. -/
def runEvents : List HostEvent → State → Host.Outcome State Fault Refusal
  | [], s => .next s
  | e :: es, s =>
    match hostStep e s with
    | .next t => runEvents es t
    | .fault r => .fault r
    | .refused r => .refused r

end Sys2Proof.Machine
end

