-- ==== Sys2Proof/Safety.lean ====
section
/-! DEFINITION. What the claims use: the invariant of the reachable states (spec 10_state.md R40 and the rules it
cites) and the states a run from reset reaches. -/

namespace Sys2Proof.Machine

/-- The invariant: R40, of which `sp <= 16` is the type of `sp`, with the canonical form of the model's memory (log
entry 18) and what the spec's decisions D3, D4 and D15 make of the error latch (log entries 17, 6 and 7). -/
structure Inv (s : State) : Prop where
  /-- `length(keyq) <= KEYBUF_CAP` (R32, R40). -/
  keyq_le : s.keyq.length ≤ keybufCap
  /-- `dirty = 0` between cycles (R40). -/
  dirty_clear : s.dirty = false
  /-- Memory is in its canonical form, the model's choice (log entry 18), and lists only addresses that exist (R29). -/
  mem_wf : Memory.wf s.mem = true
  /-- A used entry of the stack was pushed by a `CALL` fetched at or below 4094 (R142). -/
  stack_le : ∀ k : Fin 16, k.val < s.sp.val → s.stack[k].toNat ≤ 0x1000
  /-- Only a fatal kind is latched (R34; D3, log entry 17). -/
  latch_fatal : ∀ k, s.errKind = some k → k.isFatal = true
  /-- After a fatal error the block is stopped (R33, R250; D4, log entry 6). -/
  latch_stops : s.errKind ≠ none → s.run = .stopped
  /-- With no error latched the address latch has its reset value (R34, R39; D15, log entry 7). -/
  latch_addr : s.errKind = none → s.errAddr = 0

/-- A state some sequence of host events reaches from reset (R285). -/
def Reachable (t : State) : Prop := ∃ es, runEvents es State.reset = .next t

/-- A fatally stopped state: a fault state of a program, never the end of a successful run (R250, U12). -/
def FatallyStopped (s : State) : Prop := s.errKind ≠ none

end Sys2Proof.Machine
end

