-- ==== Sys2Proof/Certificates/Slice0/Obligations.lean ====
section
/-! DEFINITION. The statements for the provers, and the few words they are written in: the observable parts of a state
and what it means that a step changes only some of them. -/

namespace Sys2Proof.Spec

open Sys2Proof.Machine

/-- One observable part of the state. A byte of memory is observed by its read, a pixel by `getPixel`. -/
inductive Part
  | reg (r : Reg)
  | i
  | pc
  | dt
  | st
  | stackEntry (k : Fin 16)
  | sp
  | mem (a : Nat)
  | pixel (x y : Nat)
  | dirty
  | keyq
  | run
  | errKind
  | errAddr
  | present
  | buzz
  | err
  | rnd
  | cycles

/-- A part reads the same in two states. -/
def Part.same (s t : State) : Part → Prop
  | .reg r => t.getV r = s.getV r
  | .i => t.i = s.i
  | .pc => t.pc = s.pc
  | .dt => t.dt = s.dt
  | .st => t.st = s.st
  | .stackEntry k => t.stack[k] = s.stack[k]
  | .sp => t.sp = s.sp
  | .mem a => Memory.read t.mem a = Memory.read s.mem a
  | .pixel x y => t.getPixel x y = s.getPixel x y
  | .dirty => t.dirty = s.dirty
  | .keyq => t.keyq = s.keyq
  | .run => t.run = s.run
  | .errKind => t.errKind = s.errKind
  | .errAddr => t.errAddr = s.errAddr
  | .present => t.out.present = s.out.present
  | .buzz => t.out.buzz = s.out.buzz
  | .err => t.out.err = s.out.err
  | .rnd => t.rnd = s.rnd
  | .cycles => t.cycles = s.cycles

/-- Every part outside `changed` reads as before: the frame. -/
def OnlyChanges (changed : Part → Prop) (s t : State) : Prop := ∀ p, ¬ changed p → p.same s t

/-- The instruction answers a next state that meets `post` and differs from `s` in the parts `changed` alone. -/
def Effect (i : Instr) (s : State) (changed : Part → Prop) (post : State → Prop) : Prop :=
  ∃ t, exec i s = .next t ∧ OnlyChanges changed s t ∧ post t

/-- The sprite bit of row `r`, column `b`, of the sprite at `I` (R193: bit 7 is the leftmost). -/
def spriteBit (s : State) (r b : Nat) : Bool := (Memory.read s.mem (s.i.toNat + r)).getLsbD (7 - b)

/-- Some 1-bit of the `n`-row sprite drawn from `(V[x], V[y])` addresses the pixel `(px, py)` (R191, R193). -/
def Drawn (s : State) (x y : Reg) (n : Nat) (px py : Nat) : Prop :=
  ∃ r b, r < n ∧ b < 8 ∧ spriteBit s r b = true ∧
    ((s.getV x).toNat + b) % 64 = px % 64 ∧ ((s.getV y).toNat + r) % 32 = py % 32

/-- No symbol of the queue has a keycode. -/
def NoKey (s : State) : Prop := ∀ u ∈ s.keyq, keymap u = none

/-- `readKey` finds the keycode `k` and leaves `rest`. -/
def NextKey (s : State) (k : Keycode) (rest : List KeySymbol) : Prop :=
  ∃ front u, s.keyq = front ++ u :: rest ∧ (∀ v ∈ front, keymap v = none) ∧ keymap u = some k

/-- The memory range of an instruction is out of bounds (20_memory.md R67, last column). -/
def TransferOutOfRange (s : State) : Instr → Prop
  | .drw _ _ n => 0 < n.val ∧ 4096 < s.i.toNat + n.val
  | .ldB _ => 4096 < s.i.toNat + 3
  | .stRegs x => 4096 < s.i.toNat + x.val + 1
  | .ldRegs x => 4096 < s.i.toNat + x.val + 1
  | _ => False

/-- The registers an instruction may write (10_state.md R23, R37). -/
def WritesReg (r : Reg) : Instr → Prop
  | .ldByte x _ | .addByte x _ | .ldReg x _ | .orReg x _ | .andReg x _ | .xorReg x _ | .rnd x _ | .ldVxDt x
  | .ldK x => r = x
  | .addReg x _ | .subReg x _ | .subnReg x _ | .shr x | .shl x => r = x ∨ r = vf
  | .drw _ _ _ => r = vf
  | .ldRegs x => r.val ≤ x.val
  | _ => False

/-- The condition of a skip instruction (R26). -/
def SkipTaken (s : State) : Instr → Prop
  | .seByte x kk => s.getV x = kk
  | .sneByte x kk => s.getV x ≠ kk
  | .seReg x y => s.getV x = s.getV y
  | .sneReg x y => s.getV x ≠ s.getV y
  | .skp x => ∃ k rest, NextKey s k rest ∧ k.toNat = (s.getV x).toNat
  | .sknp x => NoKey s ∨ ∃ k rest, NextKey s k rest ∧ k.toNat ≠ (s.getV x).toNat
  | _ => False

/-- The instruction is one of the kinds that transfer control other than by a skip (R26). -/
def Transfers : Instr → Prop
  | .jp _ | .call _ | .ret | .jpV0 _ | .ldK _ => True
  | _ => False

/-- The state on entry to dispatch (R120 steps 1 and 2): outputs quiet, timers decremented, `pc` advanced, the draw of
this cycle on the input. -/
def afterFetch (s : State) (draw : Byte) : State :=
  { s with
    out := { present := false, buzz := false, err := none }
    rnd := draw
    cycles := s.cycles + 1
    dt := if s.dt = 0 then 0 else s.dt - 1
    st := if s.st = 0 then 0 else s.st - 1
    pc := s.pc + 2 }

/-- What `s` holds at `pc`, as the big-endian word of R61. -/
def wordAtPc (s : State) : Word :=
  BitVec.ofNat 16 ((Memory.read s.mem s.pc.toNat).toNat * 256 + (Memory.read s.mem (s.pc.toNat + 1)).toNat)

/-- The instruction the next cycle executes: none while stopped or when no word can be fetched. -/
def NextInstr (s : State) (i : Instr) : Prop := s.run = .running ∧ s.pc.toNat ≤ 4094 ∧ decode (wordAtPc s) = i

/-- The error kind the next cycle of a running block raises (60_exceptions.md R240, the columns "raised by" and "when"). -/
def RaisesNext (s : State) (k : ErrKind) : Prop :=
  (k = .outOfBounds ∧ (4094 < s.pc.toNat ∨ ∃ i, NextInstr s i ∧ TransferOutOfRange s i)) ∨
  (k = .undefinedOpcode ∧ NextInstr s .unknown) ∨
  (k = .stackOverflow ∧ s.sp.val = 16 ∧ ∃ nnn, NextInstr s (.call nnn)) ∨
  (k = .stackUnderflow ∧ s.sp.val = 0 ∧ NextInstr s .ret)

/-- `n` ticks of the machine reach `t`, the block running before each of them and `P` holding of each state a tick
starts from. -/
def TicksWhile (P : State → Prop) : Nat → State → State → Prop
  | 0, s, t => t = s
  | n + 1, s, t => s.run = .running ∧ P s ∧ ∃ u, step s = .next u ∧ TicksWhile P n u t

/-- Execute calls to the listed targets one after another, each dispatched in the state the last one left. -/
def CallsReach : List Addr12 → State → State → Prop
  | [], s, t => t = s
  | a :: as, s, t => ∃ u, exec (.call a) s = .next u ∧ CallsReach as u t

end Sys2Proof.Spec

open Sys2Proof Sys2Proof.Machine Sys2Proof.Spec

/-! ### Decoding and encoding -/

/-- Words written out from the patterns of 30_encoding.md R99 decode to their instructions (95_test_vectors.md part
2.1, E1 to E19; the numbers are the spec's general knowledge, log entry 10; that 0x0AE0, 0x0FEE, 0x5AB7 and 0x9ABF are
`CLS`, `RET`, `SE` and `SNE` is the literal decoder of D13, log entry 11). A sanity statement. -/
def Obligations.SampleWordsDecode : Prop :=
  decode 0x00E0#16 = .cls ∧ decode 0x0AE0#16 = .cls ∧ decode 0x0FEE#16 = .ret ∧ decode 0x00E1#16 = .sys 0x0E1 ∧
  decode 0x1200#16 = .jp 0x200 ∧ decode 0x5AB7#16 = .seReg 0xA 0xB ∧ decode 0x9ABF#16 = .sneReg 0xA 0xB ∧
  decode 0x8AB6#16 = .shr 0xA ∧ decode 0x8AB7#16 = .subnReg 0xA 0xB ∧ decode 0x8AB8#16 = .unknown ∧
  decode 0xE59E#16 = .skp 5 ∧ decode 0xE5A0#16 = .unknown ∧ decode 0xF533#16 = .ldB 5 ∧ decode 0xFFFF#16 = .unknown ∧
  decode 0xD123#16 = .drw 1 2 3 ∧ decode 0xC30F#16 = .rnd 3 0x0F

/-- Decode and encode agree for every instruction some word stands for, at every value of every operand, whatever bytes
follow. The words are those of 30_encoding.md R91 and R99 (general knowledge, log entry 10); which operands of `SYS` are
well-formed is D13 (log entry 11); `UNKNOWN` is written 0x8008 (log entry 20). -/
def Obligations.DecodeOfEncodeGivesInstruction : Prop :=
  ∀ (i : Instr) (rest : List Byte), i.wf = true → decodeBytes (encodeBytes i ++ rest) = .ok (i, rest)

/-- A word decodes to an instruction of the 35 kinds exactly when it agrees with that instruction's encoding on every
bit the decoder reads; the bits R100 lists as ignored may hold any value (D13, log entry 11). -/
def Obligations.DecodesIffSignificantBitsAgree : Prop :=
  ∀ (w : Word) (i : Instr), i.wf = true → i ≠ .unknown → (decode w = i ↔ w &&& significantBits i = encode i)

/-- The decoder gives every word the kind of the first matching row of the map of 30_encoding.md R99: it is total on the
65536 words (numbers: log entry 10; masks: D13, log entry 11). -/
def Obligations.DecoderFollowsOpcodeMap : Prop := ∀ w : Word, firstMatch w = some (classify w)

/-- The `UNKNOWN` words are exactly those of 30_encoding.md R96, R97, R98: selector 8 with one of seven low nibbles,
selectors E and F with a low byte that is none of theirs (general knowledge, log entry 10). That no word of selector 0, 5
or 9 is among them rests on the literal decoder of D13 (log entry 11). -/
def Obligations.UnknownWordsAreExactly : Prop :=
  ∀ w : Word, decode w = .unknown ↔
    (w.toNat / 4096 = 0x8 ∧ w.toNat % 16 ∈ [0x8, 0x9, 0xA, 0xB, 0xC, 0xD, 0xF]) ∨
    (w.toNat / 4096 = 0xE ∧ w.toNat % 256 ∉ [0x9E, 0xA1]) ∨
    (w.toNat / 4096 = 0xF ∧ w.toNat % 256 ∉ [0x07, 0x0A, 0x15, 0x18, 0x1E, 0x29, 0x33, 0x55, 0x65])

/-- The operands of the decoded instruction are the fields 30_encoding.md R101 lists for its kind (D27; the positions
are general knowledge, log entry 10), and what is decoded is always well-formed (which words are `SYS` is D13, log entry
11). -/
def Obligations.OperandsAreTheListedFields : Prop :=
  ∀ w : Word, (decode w).operands = operandsFor (classify w) w ∧ (decode w).wf = true

/-! ### The cycle -/

/-- A step runs the decoded instruction (40_cycle_and_system.md section 1): while running, with the word `mem[pc]`,
`mem[pc+1]` in memory, a step is the dispatch of the decoded word in the state after steps 1 and 2, followed by steps 4
and 5 unless the block was stopped. The draw of the cycle is the free value of log entry 1. -/
def Obligations.StepRunsDecodedInstruction : Prop :=
  ∀ s : State, s.run = .running → s.pc.toNat ≤ 4094 →
    step s =
      match exec (decode (wordAtPc s)) (afterFetch s (Config.rnd s.cycles)) with
      | .next t =>
        .next (if t.run = .running then
          { t with out := { t.out with present := t.dirty, buzz := decide (0 < t.st.toNat) }, dirty := false } else t)
      | .fault r => .fault r
      | .refused r => .refused r

/-- A fetch above 4094 raises `OutOfBounds(pc)` and is otherwise a no-op cycle: the timers count, `pc` advances modulo
65536, steps 4 and 5 are performed. This rests on the spec's decisions D5 and D7 (log entries 5 and 13). -/
def Obligations.OutOfRangeFetchIsAReportedNoOp : Prop :=
  ∀ s : State, s.run = .running → 4094 < s.pc.toNat →
    ∃ t, step s = .next t ∧
      OnlyChanges (fun p => p ∈ [.pc, .dt, .st, .dirty, .present, .buzz, .err, .rnd, .cycles]) s t ∧
      t.pc.toNat = (s.pc.toNat + 2) % 65536 ∧ t.dt.toNat = s.dt.toNat - 1 ∧ t.st.toNat = s.st.toNat - 1 ∧
      t.out.err = some (.outOfBounds, s.pc) ∧ t.out.present = s.dirty ∧ t.dirty = false ∧
      (t.out.buzz = true ↔ 0 < t.st.toNat)

/-- While stopped a tick performs no step at all, and `present` and `buzz` are 0 (R127; D21, log entry 16). -/
def Obligations.StoppedTickChangesNothing : Prop :=
  ∀ (s : State) (draw : Byte), s.run = .stopped →
    step s = .next s ∧ tick draw s = .next s ∧ s.presentPort = false ∧ s.buzzPort = false

/-- Step 1 (R121): whatever instruction follows, an out-of-bounds fetch (D5, log entry 5) and a fatal error (D4, log
entry 6) included, each timer above 0 is one less after the cycle, a timer at 0 stays at 0, the two independently; only `LD DT,Vx` and `LD ST,Vx` overwrite
the one they name. The instruction sees the decremented values, and over `n` cycles a timer that none of them loads
falls by `n`, floored at 0. -/
def Obligations.TimersCountDownInEveryCycle : Prop :=
  (∀ s t : State, s.run = .running → step s = .next t →
    ((∀ x, ¬ NextInstr s (.ldDt x)) → t.dt.toNat = s.dt.toNat - 1) ∧
    ((∀ x, ¬ NextInstr s (.ldSt x)) → t.st.toNat = s.st.toNat - 1) ∧
    (∀ x, NextInstr s (.ldDt x) → t.dt = s.getV x ∧ t.st.toNat = s.st.toNat - 1) ∧
    (∀ x, NextInstr s (.ldSt x) → t.st = s.getV x ∧ t.dt.toNat = s.dt.toNat - 1) ∧
    (∀ x, NextInstr s (.ldVxDt x) → (t.getV x).toNat = s.dt.toNat - 1)) ∧
  (∀ (n : Nat) (s t : State), TicksWhile (fun u => ∀ x, ¬ NextInstr u (.ldDt x)) n s t →
    t.dt.toNat = s.dt.toNat - n) ∧
  (∀ (n : Nat) (s t : State), TicksWhile (fun u => ∀ x, ¬ NextInstr u (.ldSt x)) n s t →
    t.st.toNat = s.st.toNat - n)

/-- A delay counts cycles (46_timers.md, `LD Vx,DT`): a timer loaded with `v` by `LD DT,Vx` in one cycle and read by
`LD Vy,DT` in the `j`-th cycle after it, with no other `LD DT,Vx` between, reads `max(v - j, 0)`. -/
def Obligations.DelayTimerCountsCycles : Prop :=
  ∀ (j : Nat) (x y : Reg) (s t u v : State), NextInstr s (.ldDt x) → step s = .next t →
    TicksWhile (fun w => ∀ z, ¬ NextInstr w (.ldDt z)) j t u → NextInstr u (.ldVxDt y) → step u = .next v →
    (v.getV y).toNat = (s.getV x).toNat - (j + 1)

/-- The tone lasts as many cycles as `ST` was loaded with (the spec marks R126's consequence as derived): after `LD
ST,Vx` left `ST = v`, the `n`-th later cycle, no other `LD ST,Vx` coming between and the block still running, has
`buzz = 1` exactly when `n < v`. -/
def Obligations.ToneLastsLoadedCycles : Prop :=
  ∀ (n : Nat) (s t : State), 0 < n → TicksWhile (fun u => ∀ x, ¬ NextInstr u (.ldSt x)) n s t → t.run = .running →
    (t.buzzPort = true ↔ n < s.st.toNat)

/-- No instruction and no tick ever ends in a fault or a refusal: every dispatch and every step answers a next state
(60_exceptions.md section 1; the out-of-bounds case rests on D5, log entry 5, the fatal case on D4, log entry 6). -/
def Obligations.EveryStepAnswersNext : Prop :=
  (∀ s : State, ∃ t, step s = .next t) ∧ (∀ (i : Instr) (s : State), ∃ t, exec i s = .next t)

/-- `present` and `dirty` (R125), for a state that meets `Inv` (`dirty = 0` between cycles): a cycle shows `present = 1`
exactly when it completes a `CLS` or a `DRW`, and leaves `dirty = 0`; the spec marks the "exactly" as derived, and the abandoned `DRW` is
D5 (log entry 5). -/
def Obligations.PresentExactlyOnCompletedDraws : Prop :=
  ∀ s t : State, Inv s → s.run = .running → step s = .next t →
    t.dirty = false ∧
    (t.out.present = true ↔
      NextInstr s .cls ∨ ∃ x y n, NextInstr s (.drw x y n) ∧ ¬ TransferOutOfRange s (.drw x y n))

/-! ### Reset, invariants, host events -/

/-- The state after reset (the table of R39): registers, timers, stack zero, `pc = 0x200`, memory zero but for the font
table at `FONT_BASE` (R36), below the program, whatever the font's parameters; blank screen, empty queue, running and no
error are the spec's decision D15 (log entry 7). -/
def Obligations.ResetValues : Prop :=
  (∀ r, State.reset.getV r = 0) ∧ State.reset.i = 0 ∧ State.reset.pc = 0x200 ∧ State.reset.dt = 0 ∧
  State.reset.st = 0 ∧ (∀ k : Fin 16, State.reset.stack[k] = 0) ∧ State.reset.sp = 0 ∧
  (∀ a, Memory.read State.reset.mem a =
    if fontBase ≤ a ∧ a < fontBase + 16 * fontGlyphBytes then fontByte (a - fontBase) else 0) ∧
  fontBase + 16 * fontGlyphBytes ≤ 0x200 ∧
  (∀ x y, State.reset.getPixel x y = false) ∧ State.reset.dirty = false ∧ State.reset.keyq = [] ∧
  State.reset.run = .running ∧ State.reset.errKind = none ∧ State.reset.errAddr = 0

/-- The state after reset meets the invariant: 10_state.md R40, the canonical form of the model's memory (log entry 18),
and the clauses on the error latch, which rest on D3, D4 and D15 (log entries 17, 6 and 7). -/
def Obligations.ResetMeetsInvariant : Prop := Inv State.reset

/-- Every step keeps the invariant: the queue within capacity and `dirty = 0` between cycles (R40, which the spec marks as
derived), every used stack entry at most 0x1000 (R142), memory canonical (the model's choice, log entry 18), a latched
error fatal and the block then stopped, and the address latch 0 while nothing is latched (D3, D4 and D15, log entries
17, 6 and 7). -/
def Obligations.StepKeepsInvariant : Prop := ∀ s t : State, Inv s → step s = .next t → Inv t

/-- Every host event keeps the invariant, a tick with any draw among them; so it holds of every state that any sequence of
host events reaches from reset (R40). Memory canonical is the model's choice (log entry 18), the clauses on the error
latch rest on D3, D4 and D15 (log entries 17, 6 and 7), and what one event is, and which loads are refused, on log
entry 16. -/
def Obligations.HostEventsKeepInvariant : Prop :=
  (∀ (e : HostEvent) (s t : State), Inv s → hostStep e s = .next t → Inv t) ∧ (∀ t : State, Reachable t → Inv t)

/-- `Reset` is the only way out of `stopped` (R33, R253, R282; D21 and D28, log entry 16): no other event makes a stopped block run, and
`Reset` restores the reset state from any state; whatever else happens while stopped changes the key queue at most
(R258, R262; a `LoadProgram` is refused, log entry 16). `Reset` overrides everything pending with it and `Cancel` a
`tick` (R248). -/
def Obligations.OnlyResetLeavesStopped : Prop :=
  (∀ (e : HostEvent) (s t : State), s.run = .stopped → hostStep e s = .next t → t.run = .running → e = .reset) ∧
  (∀ (e : HostEvent) (s t : State), s.run = .stopped → e ≠ .reset → hostStep e s = .next t →
    OnlyChanges (fun p => p = .keyq) s t) ∧
  (∀ (s : State) (bytes : List Byte), s.run = .stopped → hostStep (.loadProgram bytes) s = .refused .loadWhileStopped) ∧
  (∀ s : State, hostStep .reset s = .next State.reset) ∧
  (∀ (cancel tick : Bool) (draw : Byte), pendingEvent true cancel tick draw = some .reset ∧
    pendingEvent false true tick draw = some .cancel)

/-- `Cancel` stops a running block without error and changes nothing else (R258; D21, log entry 16). -/
def Obligations.CancelStopsWithoutError : Prop :=
  ∀ s : State, Inv s → s.run = .running → ∃ t, hostStep .cancel s = .next t ∧ t.run = .stopped ∧
    OnlyChanges (fun p => p = .run) s t ∧ t.fatalPort = false ∧ t.errKindPort = 0 ∧ t.runningPort = false

/-- `LoadProgram` into a running block before its first cycle (R286; the truncation is D22, log entry 16): the first 3584
bytes at most land at 0x200 upwards, their count is what is returned, and nothing else changes. After the first cycle
it is refused. That a second load before the first cycle is accepted too is the model's choice (log entry 16). -/
def Obligations.LoadProgramCopiesWhatFits : Prop :=
  ∀ (s : State) (bytes : List Byte),
    (s.run = .running → 0 < s.cycles → hostStep (.loadProgram bytes) s = .refused .loadAfterFirstTick) ∧
    (s.run = .running → s.cycles = 0 → ∃ t, hostStep (.loadProgram bytes) s = .next t ∧
      loadCount bytes = min bytes.length 3584 ∧
      OnlyChanges (fun p => ∃ k, k < loadCount bytes ∧ p = .mem (0x200 + k)) s t ∧
      ∀ k, k < loadCount bytes → some (Memory.read t.mem (0x200 + k)) = bytes[k]?)

/-- `KeyPush` (R221): the queue becomes the most recent `KEYBUF_CAP` symbols of the old queue followed by the new ones,
in order; nothing else changes; pushing a list is pushing its elements one at a time (the spec marks this as derived).
It is accepted while stopped. -/
def Obligations.KeyPushKeepsMostRecent : Prop :=
  ∀ (s : State) (symbols : List KeySymbol),
    (∃ t, hostStep (.keyPush symbols) s = .next t ∧ OnlyChanges (fun p => p = .keyq) s t ∧
      t.keyq.length = min (s.keyq.length + symbols.length) keybufCap ∧
      ∃ dropped, dropped ++ t.keyq = s.keyq ++ symbols) ∧
    ∀ u, (s.keyPush (u :: symbols)).keyq = ((s.keyPush [u]).keyPush symbols).keyq

/-! ### Memory -/

/-- `MemRead` and `MemWrite` (R66; D5 and D23, log entries 5 and 15): the whole range is checked first, an empty range is
never out of bounds, a read gives the bytes in ascending order, a write lands every byte and changes no other. That a
write keeps the canonical form is about the model's own representation of memory (log entry 18). -/
def Obligations.MemoryPrimitivesCheckThenMove : Prop :=
  (∀ (m : Memory) (addr n : Nat),
    (memRead m addr n = none ↔ n ≠ 0 ∧ 4096 < addr + n) ∧
    (∀ bytes, memRead m addr n = some bytes →
      bytes.length = n ∧ ∀ k, k < n → bytes[k]? = some (Memory.read m (addr + k)))) ∧
  (∀ (m : Memory) (addr : Nat) (bytes : List Byte),
    (memWrite m addr bytes = none ↔ bytes ≠ [] ∧ 4096 < addr + bytes.length) ∧
    (∀ m', memWrite m addr bytes = some m' →
      (∀ k, k < bytes.length → some (Memory.read m' (addr + k)) = bytes[k]?) ∧
      (∀ a, a < addr ∨ addr + bytes.length ≤ a → Memory.read m' a = Memory.read m a) ∧
      (Memory.wf m = true → Memory.wf m' = true)))

/-- Two canonical memories that read alike at every address are the same data (log entry 18). -/
def Obligations.EqualMemoriesAreEqualData : Prop :=
  ∀ m m' : Memory, Memory.wf m = true → Memory.wf m' = true → (∀ a, Memory.read m a = Memory.read m' a) → m = m'

/-- Fetch is coherent with stores (the spec marks R73 as derived): after `LD [I],Vx` in range, a fetch from two of the
bytes it stored decodes exactly those bytes. -/
def Obligations.StoresAreFetchedAtOnce : Prop :=
  ∀ (s t : State) (x j k : Reg), s.i.toNat + x.val + 1 ≤ 4096 → k.val = j.val + 1 → k.val ≤ x.val →
    exec (.stRegs x) s = .next t → t.pc.toNat = s.i.toNat + j.val →
    t.fetch = some (decode (BitVec.ofNat 16 ((s.getV j).toNat * 256 + (s.getV k).toNat)))

/-! ### System and control transfer -/

/-- `SYS addr` does nothing (R130), whatever its operand; its words are those of selector 0 whose low byte is neither
0xE0 nor 0xEE; over a cycle `pc` advances by 2 and the timers count. -/
def Obligations.SysIsANoOp : Prop :=
  (∀ (nnn : Addr12) (s : State), Effect (.sys nnn) s (fun _ => False) fun _ => True) ∧
  (∀ w : Word, w.toNat / 4096 = 0 → w.toNat % 256 ≠ 0xE0 → w.toNat % 256 ≠ 0xEE →
    decode w = .sys (BitVec.ofNat 12 w.toNat)) ∧
  (∀ (nnn : Addr12) (s t : State), NextInstr s (.sys nnn) → step s = .next t →
    t.pc.toNat = s.pc.toNat + 2 ∧ t.dt.toNat = s.dt.toNat - 1 ∧ t.st.toNat = s.st.toNat - 1 ∧
    OnlyChanges (fun p => p ∈ [.pc, .dt, .st, .dirty, .present, .buzz, .err, .rnd, .cycles]) s t)

/-- `UNKNOWN` changes no architectural state: it only reports `UndefinedOpcode` with the fetch address for this cycle
(R131; the report is D20, log entry 17). -/
def Obligations.UnknownOnlyReports : Prop :=
  ∀ s : State, Effect .unknown s (fun p => p = .err) fun t => t.out.err = some (.undefinedOpcode, s.pc - 2)

/-- `JP addr` (R141): the words of selector 1, and the 12-bit operand, odd or even, in `pc`; nothing else. -/
def Obligations.JumpGoesToAddress : Prop :=
  (∀ (nnn : Addr12) (s : State), Effect (.jp nnn) s (fun p => p = .pc) fun t => t.pc.toNat = nnn.toNat) ∧
  (∀ w : Word, w.toNat / 4096 = 1 → decode w = .jp (BitVec.ofNat 12 w.toNat))

/-- `JP V0,addr` (R143; not masked to 12 bits, D7, log entry 13): always `V[0]`. -/
def Obligations.JumpV0AddsRegisterZero : Prop :=
  ∀ (nnn : Addr12) (s : State), Effect (.jpV0 nnn) s (fun p => p = .pc) fun t =>
    t.pc.toNat = (s.getV 0).toNat + nnn.toNat

/-- `CALL addr` with room (R142, R28; the stack discipline is D16, log entry 22): the advanced `pc` goes to `stack[sp]`,
`sp` grows by one, `pc` becomes the address, every other entry stays. -/
def Obligations.CallPushesReturnAddress : Prop :=
  ∀ (nnn : Addr12) (s : State) (k : Fin 16), s.sp.val = k.val →
    Effect (.call nnn) s (fun p => p ∈ [.pc, .sp, .stackEntry k]) fun t =>
      t.pc.toNat = nnn.toNat ∧ t.sp.val = s.sp.val + 1 ∧ t.stack[k] = s.pc

/-- `RET` with an entry (R140, R28; D16, log entry 22): `sp` falls by one and `pc` becomes the entry, all 16 bits, which keeps its value. -/
def Obligations.ReturnPopsIntoPc : Prop :=
  ∀ (s : State) (k : Fin 16), s.sp.val = k.val + 1 →
    Effect .ret s (fun p => p ∈ [.pc, .sp]) fun t => t.pc = s.stack[k] ∧ t.sp.val = k.val

/-- The round trip (R140, "Property from the source"): a `RET` reached with the stack as a `CALL` left it restores `pc`
to the instruction immediately after the `CALL`, and `sp`. -/
def Obligations.CallThenReturnRestoresPc : Prop :=
  ∀ (nnn : Addr12) (s t u : State), s.sp.val < 16 → exec (.call nnn) s = .next t → u.sp = t.sp → u.stack = t.stack →
    ∃ v, exec .ret u = .next v ∧ v.pc = s.pc ∧ v.sp = s.sp

/-- 16 nested calls from an empty stack succeed and a 17th fails (R28, R142): the block stops with `StackOverflow`. What
the failing call leaves is D4 (log entry 6). -/
def Obligations.SixteenCallsThenOverflow : Prop :=
  ∀ (targets : List Addr12) (last : Addr12) (s : State), targets.length = 16 → s.sp = 0 → s.run = .running →
    ∃ t u, CallsReach targets s t ∧ t.sp = 16 ∧ t.run = .running ∧
      exec (.call last) t = .next u ∧ u.run = .stopped ∧ u.errKind = some .stackOverflow ∧ u.sp = 16

/-- The fatal entry (60_exceptions.md section 4; the state it leaves is D4, log entry 6, the codes D3, log entry 17): the cycle of a `CALL` with a
full stack, or of a `RET` with an empty one, counts the timers, advances `pc`, performs none of the instruction's writes
and neither step 4 nor step 5, stops the block, and latches and shows the code and the fetch address. -/
def Obligations.FatalErrorsStopAndLatch : Prop :=
  ∀ (s : State) (i : Instr) (k : ErrKind),
    ((∃ nnn, i = .call nnn) ∧ s.sp.val = 16 ∧ k = .stackOverflow) ∨ (i = .ret ∧ s.sp.val = 0 ∧ k = .stackUnderflow) →
    NextInstr s i →
    ∃ t, step s = .next t ∧
      OnlyChanges (fun p => p ∈ [.pc, .dt, .st, .run, .errKind, .errAddr, .present, .buzz, .err, .rnd, .cycles]) s t ∧
      t.pc = s.pc + 2 ∧ t.dt.toNat = s.dt.toNat - 1 ∧ t.st.toNat = s.st.toNat - 1 ∧
      t.run = .stopped ∧ t.errKind = some k ∧ t.errAddr = s.pc ∧
      t.out.present = false ∧ t.out.buzz = false ∧ t.fatalPort = true ∧ t.runningPort = false ∧
      t.errKindPort = k.code ∧ t.errAddrPort = s.pc

/-! ### Skips -/

/-- `SE Vx,byte` and `SNE Vx,byte` (R150, R151): all 8 bits compared, `pc` a further 2 modulo 65536 (D7, log
entry 13) when the condition holds, else nothing. -/
def Obligations.ByteSkipsCompareAllBits : Prop :=
  ∀ (x : Reg) (kk : Byte) (s : State),
    Effect (.seByte x kk) s (fun p => p = .pc) (fun t =>
      t.pc.toNat = if (s.getV x).toNat = kk.toNat then (s.pc.toNat + 2) % 65536 else s.pc.toNat) ∧
    Effect (.sneByte x kk) s (fun p => p = .pc) (fun t =>
      t.pc.toNat = if (s.getV x).toNat = kk.toNat then s.pc.toNat else (s.pc.toNat + 2) % 65536)

/-- `SE Vx,Vy` and `SNE Vx,Vy` (42_skips.md; the wrap of `pc` is D7, log entry 13; the words that differ in the ignored
nibble are D13, log entry 11). -/
def Obligations.RegisterSkipsCompareAllBits : Prop :=
  ∀ (x y : Reg) (s : State),
    Effect (.seReg x y) s (fun p => p = .pc) (fun t =>
      t.pc.toNat = if (s.getV x).toNat = (s.getV y).toNat then (s.pc.toNat + 2) % 65536 else s.pc.toNat) ∧
    Effect (.sneReg x y) s (fun p => p = .pc) (fun t =>
      t.pc.toNat = if (s.getV x).toNat = (s.getV y).toNat then s.pc.toNat else (s.pc.toNat + 2) % 65536)

/-! ### The ALU -/

/-- `LD Vx,byte`, `ADD Vx,byte`, `LD Vx,Vy` (R161, R162, R163): the new value, wrapping, and no flag: every other
register, `VF` among them, stays. -/
def Obligations.LoadsAndAddByteWriteOnlyVx : Prop :=
  ∀ (x y : Reg) (kk : Byte) (s : State),
    Effect (.ldByte x kk) s (fun p => p = .reg x) (fun t => t.getV x = kk) ∧
    Effect (.addByte x kk) s (fun p => p = .reg x)
      (fun t => (t.getV x).toNat = ((s.getV x).toNat + kk.toNat) % 256) ∧
    Effect (.ldReg x y) s (fun p => p = .reg x) (fun t => t.getV x = s.getV y)

/-- `OR`, `AND`, `XOR` (43_alu.md): bit by bit, and `VF` is not written (D18, log entry 14). -/
def Obligations.LogicIsBitwiseAndLeavesVF : Prop :=
  ∀ (x y : Reg) (s : State),
    Effect (.orReg x y) s (fun p => p = .reg x) (fun t => ∀ k, k < 8 →
      (t.getV x).toNat.testBit k = ((s.getV x).toNat.testBit k || (s.getV y).toNat.testBit k)) ∧
    Effect (.andReg x y) s (fun p => p = .reg x) (fun t => ∀ k, k < 8 →
      (t.getV x).toNat.testBit k = ((s.getV x).toNat.testBit k && (s.getV y).toNat.testBit k)) ∧
    Effect (.xorReg x y) s (fun p => p = .reg x) (fun t => ∀ k, k < 8 →
      (t.getV x).toNat.testBit k = ((s.getV x).toNat.testBit k ^^ (s.getV y).toNat.testBit k))

/-- `ADD Vx,Vy` (43_alu.md): the sum modulo 256 in `V[x]` and the carry in `VF`; with `x = 15` the carry is what stays
(the spec's reading D12, log entry 12). -/
def Obligations.AddWritesSumThenCarry : Prop :=
  ∀ (x y : Reg) (s : State),
    Effect (.addReg x y) s (fun p => p = .reg x ∨ p = .reg vf) fun t =>
      (x ≠ vf → (t.getV x).toNat = ((s.getV x).toNat + (s.getV y).toNat) % 256) ∧
      (t.getV vf).toNat = if 255 < (s.getV x).toNat + (s.getV y).toNat then 1 else 0

/-- `SUB` and `SUBN` (43_alu.md): the difference modulo 256 in `V[x]`; `VF` is 1 exactly when the minuend is strictly
greater; with `x = 15` the difference is what stays (D12, log entry 12). -/
def Obligations.SubtractionFlagsStrictlyGreater : Prop :=
  ∀ (x y : Reg) (s : State),
    Effect (.subReg x y) s (fun p => p = .reg x ∨ p = .reg vf) (fun t =>
      (t.getV x).toNat = ((s.getV x).toNat + 256 - (s.getV y).toNat) % 256 ∧
      (x ≠ vf → (t.getV vf).toNat = if (s.getV y).toNat < (s.getV x).toNat then 1 else 0)) ∧
    Effect (.subnReg x y) s (fun p => p = .reg x ∨ p = .reg vf) (fun t =>
      (t.getV x).toNat = ((s.getV y).toNat + 256 - (s.getV x).toNat) % 256 ∧
      (x ≠ vf → (t.getV vf).toNat = if (s.getV x).toNat < (s.getV y).toNat then 1 else 0))

/-- `SHR` and `SHL` (43_alu.md): `V[x]` itself by one place (`Vy` ignored, D18, log entry 14), the bit shifted out in
`VF`; with `x = 15` the shifted value is what stays (D12, log entry 12). -/
def Obligations.ShiftsMoveVxByOnePlace : Prop :=
  ∀ (x : Reg) (s : State),
    Effect (.shr x) s (fun p => p = .reg x ∨ p = .reg vf) (fun t =>
      (t.getV x).toNat = (s.getV x).toNat / 2 ∧ (x ≠ vf → (t.getV vf).toNat = (s.getV x).toNat % 2)) ∧
    Effect (.shl x) s (fun p => p = .reg x ∨ p = .reg vf) (fun t =>
      (t.getV x).toNat = 2 * (s.getV x).toNat % 256 ∧ (x ≠ vf → (t.getV vf).toNat = (s.getV x).toNat / 128))

/-- `RND Vx,byte` (43_alu.md): the draw AND the operand, for every value of the draw (a free value, D11, log entry 1);
bits where the operand has 0 are 0; no other register changes. -/
def Obligations.RndMasksTheDraw : Prop :=
  ∀ (x : Reg) (kk : Byte) (s : State),
    Effect (.rnd x kk) s (fun p => p = .reg x) fun t =>
      ∀ k, k < 8 → (t.getV x).toNat.testBit k = (s.rnd.toNat.testBit k && kk.toNat.testBit k)

/-- The draw matters to `RND` alone (R10: `rnd` is sampled only by a cycle that executes `RND`): any other instruction
does the same whatever the draw. -/
def Obligations.DrawMattersToRndAlone : Prop :=
  ∀ (i : Instr) (s t : State) (draw : Byte), (∀ x kk, i ≠ .rnd x kk) → exec i s = .next t →
    exec i { s with rnd := draw } = .next { t with rnd := draw }

/-! ### The index register and memory transfer -/

/-- `LD I,addr` (R180), `ADD I,Vx` (modulo 65536, no flag, D6, log entry 13) and `LD F,Vx` (all 8 bits of `V[x]`, D19,
log entry 14), for every font. -/
def Obligations.IndexInstructionsSetOnlyI : Prop :=
  ∀ (nnn : Addr12) (x : Reg) (s : State),
    Effect (.ldI nnn) s (fun p => p = .i) (fun t => t.i.toNat = nnn.toNat) ∧
    Effect (.addI x) s (fun p => p = .i) (fun t => t.i.toNat = (s.i.toNat + (s.getV x).toNat) % 65536) ∧
    Effect (.ldF x) s (fun p => p = .i) (fun t => t.i.toNat = (fontBase + fontGlyphBytes * (s.getV x).toNat) % 65536)

/-- `LD B,Vx` in range (R183): three digits, each 0 to 9, that are the decimal expansion of `V[x]`, hundreds at `I`; no
other byte and no register changes. -/
def Obligations.BcdStoresThreeDigits : Prop :=
  ∀ (x : Reg) (s : State), s.i.toNat + 3 ≤ 4096 →
    Effect (.ldB x) s (fun p => ∃ a, p = .mem a ∧ s.i.toNat ≤ a ∧ a < s.i.toNat + 3) fun t =>
      let d := fun k => (Memory.read t.mem (s.i.toNat + k)).toNat
      d 0 ≤ 9 ∧ d 1 ≤ 9 ∧ d 2 ≤ 9 ∧ d 0 * 100 + d 1 * 10 + d 2 = (s.getV x).toNat

/-- `LD [I],Vx` in range (44_index_and_memory.md; `I` unchanged is D18, log entry 14): `V[k]` at `I + k` for every `k`
up to `x`, and no other byte. -/
def Obligations.BlockStoreCopiesRegisters : Prop :=
  ∀ (x : Reg) (s : State), s.i.toNat + x.val + 1 ≤ 4096 →
    Effect (.stRegs x) s (fun p => ∃ a, p = .mem a ∧ s.i.toNat ≤ a ∧ a < s.i.toNat + x.val + 1) fun t =>
      ∀ k : Reg, k.val ≤ x.val → Memory.read t.mem (s.i.toNat + k.val) = s.getV k

/-- `LD Vx,[I]` in range (44_index_and_memory.md; `I` unchanged is D18, log entry 14): the byte at `I + k` in `V[k]` for
every `k` up to `x`, and no other register. -/
def Obligations.BlockLoadCopiesMemory : Prop :=
  ∀ (x : Reg) (s : State), s.i.toNat + x.val + 1 ≤ 4096 →
    Effect (.ldRegs x) s (fun p => ∃ k : Reg, p = .reg k ∧ k.val ≤ x.val) fun t =>
      ∀ k : Reg, k.val ≤ x.val → t.getV k = Memory.read s.mem (s.i.toNat + k.val)

/-- An out-of-range transfer is abandoned whole (20_memory.md section 3; D5, log entry 5): nothing changes but the
report of `OutOfBounds` with the fetch address. -/
def Obligations.OutOfRangeTransfersAreAbandoned : Prop :=
  ∀ (i : Instr) (s : State), TransferOutOfRange s i →
    Effect i s (fun p => p = .err) fun t => t.out.err = some (.outOfBounds, s.pc - 2)

/-! ### The display -/

/-- `CLS` (R192, R195): every pixel off and `dirty` set, even if the screen was blank; `VF` unchanged; the cycle that
executes it has `present = 1`. -/
def Obligations.ClearTurnsEveryPixelOff : Prop :=
  (∀ s : State, Effect .cls s (fun p => p = .dirty ∨ ∃ x y, p = .pixel x y) fun t =>
    t.dirty = true ∧ ∀ x y, t.getPixel x y = false) ∧
  (∀ s t : State, NextInstr s .cls → step s = .next t → t.presentPort = true ∧ ∀ x y, t.getPixel x y = false)

/-- `DRW` in range is the XOR of the frame with the set of pixels the sprite's 1-bits address (the equality the spec
derives in R193), with per-pixel wrap, and `VF` is 1 exactly when one of them was lit; `dirty` is set even by `n = 0`
(D23, log entry 15). -/
def Obligations.DrawXorsTheAddressedPixels : Prop :=
  ∀ (x y : Reg) (n : Nibble) (s : State), n.val = 0 ∨ s.i.toNat + n.val ≤ 4096 →
    Effect (.drw x y n) s (fun p => p = .dirty ∨ p = .reg vf ∨ ∃ px py, p = .pixel px py) fun t =>
      t.dirty = true ∧
      (∀ px py, Drawn s x y n.val px py → t.getPixel px py = !s.getPixel px py) ∧
      (∀ px py, ¬ Drawn s x y n.val px py → t.getPixel px py = s.getPixel px py) ∧
      ((∃ px py, Drawn s x y n.val px py ∧ s.getPixel px py = true) → t.getV vf = 1) ∧
      ((∀ px py, Drawn s x y n.val px py → s.getPixel px py = false) → t.getV vf = 0)

/-- Drawing the identical sprite twice at the identical coordinates restores the frame (R196, self-inverse), and the
second draw reports a collision exactly when one of its pixels was off before the first (the spec marks the second half
as derived). -/
def Obligations.DrawingTwiceRestoresTheFrame : Prop :=
  ∀ (x y : Reg) (n : Nibble) (s t : State), n.val = 0 ∨ s.i.toNat + n.val ≤ 4096 → exec (.drw x y n) s = .next t →
    t.getV x = s.getV x → t.getV y = s.getV y →
    ∃ u, exec (.drw x y n) t = .next u ∧ (∀ px py, u.getPixel px py = s.getPixel px py) ∧
      (u.getV vf = 1 ↔ ∃ px py, Drawn s x y n.val px py ∧ s.getPixel px py = false)

/-! ### Timers and keys -/

/-- `LD Vx,DT`, `LD DT,Vx`, `LD ST,Vx` (R210, R211, R212): a copy between `V[x]` and the named timer, and nothing else;
over the whole cycle `LD Vx,DT` gives `DT` as step 1 left it, the two loads replace what step 1 left, and `buzz` already
follows the new `ST`. -/
def Obligations.TimerCopies : Prop :=
  (∀ (x : Reg) (s : State),
    Effect (.ldVxDt x) s (fun p => p = .reg x) (fun t => t.getV x = s.dt) ∧
    Effect (.ldDt x) s (fun p => p = .dt) (fun t => t.dt = s.getV x) ∧
    Effect (.ldSt x) s (fun p => p = .st) (fun t => t.st = s.getV x)) ∧
  (∀ (x : Reg) (s t : State), step s = .next t →
    (NextInstr s (.ldVxDt x) → t.getV x = t.dt ∧ t.dt.toNat = s.dt.toNat - 1) ∧
    (NextInstr s (.ldDt x) → t.dt = s.getV x) ∧
    (NextInstr s (.ldSt x) → t.st = s.getV x ∧ (t.buzzPort = true ↔ 0 < (s.getV x).toNat)))

/-- `LD K,Vx` (47_keypad.md): with a mapped symbol in the queue, its keycode goes to `V[x]` and it leaves the queue with
the unmapped symbols ahead of it; with none, the queue is emptied and `pc` goes back by 2 (modulo 65536, D7, log entry
13), so the cycle ends at the address it began at and only the timers count. -/
def Obligations.KeyWaitTakesAKeyOrRewinds : Prop :=
  (∀ (x : Reg) (s : State),
    (∀ k rest, NextKey s k rest → Effect (.ldK x) s (fun p => p = .reg x ∨ p = .keyq) fun t =>
      (t.getV x).toNat = k.toNat ∧ t.keyq = rest) ∧
    (NoKey s → Effect (.ldK x) s (fun p => p = .pc ∨ p = .keyq) fun t => t.keyq = [] ∧ t.pc = s.pc - 2)) ∧
  (∀ (x : Reg) (s t : State), NextInstr s (.ldK x) → NoKey s → step s = .next t →
    t.pc = s.pc ∧ t.dt.toNat = s.dt.toNat - 1 ∧ t.st.toNat = s.st.toNat - 1 ∧ t.run = .running)

/-- `SKP Vx` and `SKNP Vx` (47_keypad.md; all 8 bits of `V[x]` compared, D19, log entry 14; the wrap of `pc` is D7, log
entry 13): both consume exactly what
`readKey` consumes; with a key they skip on equality and on difference, without one `SKNP` skips and `SKP` does not. -/
def Obligations.KeySkipsConsumeAndCompare : Prop :=
  ∀ (x : Reg) (s : State),
    (∀ k rest, NextKey s k rest →
      Effect (.skp x) s (fun p => p = .pc ∨ p = .keyq) (fun t => t.keyq = rest ∧
        t.pc = if k.toNat = (s.getV x).toNat then s.pc + 2 else s.pc) ∧
      Effect (.sknp x) s (fun p => p = .pc ∨ p = .keyq) (fun t => t.keyq = rest ∧
        t.pc = if k.toNat = (s.getV x).toNat then s.pc else s.pc + 2)) ∧
    (NoKey s →
      Effect (.skp x) s (fun p => p = .keyq) (fun t => t.keyq = []) ∧
      Effect (.sknp x) s (fun p => p = .pc ∨ p = .keyq) (fun t => t.keyq = [] ∧ t.pc = s.pc + 2))

/-! ### Whole-machine rules -/

/-- How each kind changes `pc` (R26): with `pc` the address after the instruction on entry, a taken skip adds 2, `JP`,
`CALL`, `RET`, `JP V0,addr` and a waiting `LD K,Vx` set it as listed, a fatal error and every other kind leave it
(D7, log entry 13; D4, log entry 6). -/
def Obligations.PcChangesAsListed : Prop :=
  ∀ (i : Instr) (s t : State), exec i s = .next t →
    (SkipTaken s i → t.pc = s.pc + 2) ∧
    (¬ SkipTaken s i → ¬ Transfers i → t.pc = s.pc) ∧
    (∀ nnn, i = .jp nnn → t.pc.toNat = nnn.toNat) ∧
    (∀ nnn, i = .call nnn → (s.sp.val < 16 → t.pc.toNat = nnn.toNat) ∧ (s.sp.val = 16 → t.pc = s.pc)) ∧
    (i = .ret → (∀ k : Fin 16, s.sp.val = k.val + 1 → t.pc = s.stack[k]) ∧ (s.sp.val = 0 → t.pc = s.pc)) ∧
    (∀ nnn, i = .jpV0 nnn → t.pc.toNat = ((s.getV 0).toNat + nnn.toNat) % 65536) ∧
    (∀ x, i = .ldK x → (NoKey s → t.pc = s.pc - 2) ∧ (¬ NoKey s → t.pc = s.pc))

/-- No instruction writes a register it does not name, but for the block load and the flag writes of the six listed
instructions (R23, R37; D18, log entry 14). -/
def Obligations.OnlyNamedRegistersAreWritten : Prop :=
  ∀ (i : Instr) (s t : State) (r : Reg), exec i s = .next t → ¬ WritesReg r i → t.getV r = s.getV r

/-- Every other part of the state is written by the instructions named for it alone (10_state.md sections 3 to 7): `I`,
the timers, the stack, memory, the frame, the queue, the run state and the error latch. That `LD [I],Vx` and `LD Vx,[I]`
leave `I` is D18 (log entry 14). The last clause is about the model's own fields: no instruction touches the draw `rnd`
and the counter `cycles` (log entry 1) or the held pulses (log entry 8). -/
def Obligations.StateIsWrittenOnlyByItsInstructions : Prop :=
  ∀ (i : Instr) (s t : State), exec i s = .next t →
    ((∀ nnn x, i ≠ .ldI nnn ∧ i ≠ .addI x ∧ i ≠ .ldF x) → t.i = s.i) ∧
    ((∀ x, i ≠ .ldDt x) → t.dt = s.dt) ∧ ((∀ x, i ≠ .ldSt x) → t.st = s.st) ∧
    ((∀ nnn, i ≠ .call nnn) → t.stack = s.stack) ∧
    ((∀ nnn, i ≠ .call nnn ∧ i ≠ .ret) →
      t.sp = s.sp ∧ t.run = s.run ∧ t.errKind = s.errKind ∧ t.errAddr = s.errAddr) ∧
    ((∀ x, i ≠ .ldB x ∧ i ≠ .stRegs x) → t.mem = s.mem) ∧
    ((∀ x y n, i ≠ .cls ∧ i ≠ .drw x y n) → t.fb = s.fb ∧ t.dirty = s.dirty) ∧
    ((∀ x, i ≠ .ldK x ∧ i ≠ .skp x ∧ i ≠ .sknp x) → t.keyq = s.keyq) ∧
    t.rnd = s.rnd ∧ t.cycles = s.cycles ∧ t.out.present = s.out.present ∧ t.out.buzz = s.out.buzz

/-- A cycle reports an error kind exactly when the table of 60_exceptions.md section 1 says it is raised, with the fetch
address, and at most one; the two ports show its code and that address, and both are 0 in a cycle that raises none, the
one after a report included (R246; the codes and the report on the outputs are D3, log entry 17). -/
def Obligations.ErrorsAreReportedExactlyWhenRaised : Prop :=
  ∀ s t : State, s.run = .running → step s = .next t →
    (∀ k, RaisesNext s k → t.out.err = some (k, s.pc) ∧ t.errKindPort = k.code ∧ t.errAddrPort = s.pc) ∧
    ((∀ k, ¬ RaisesNext s k) → t.out.err = none ∧ t.errKindPort = 0 ∧ t.errAddrPort = 0)

/-- Only a `CALL` with a full stack and a `RET` with an empty one stop the block (60_exceptions.md section 1; that an
out-of-bounds access does not is D5, log entry 5). -/
def Obligations.OnlyStackErrorsStopTheBlock : Prop :=
  ∀ s t : State, s.run = .running → step s = .next t →
    (t.run = .stopped ↔ RaisesNext s .stackOverflow ∨ RaisesNext s .stackUnderflow)

/-- After a fatal error the ports hold the code and the address, `fatal = 1` and `running = 0`, until `Reset`
(60_exceptions.md sections 1 and 4, R246 and R250; R33; D3, log entry 17; D21, log entry 16). -/
def Obligations.PortsHoldFatalErrorUntilReset : Prop :=
  ∀ (e : HostEvent) (s t : State) (k : ErrKind), Inv s → s.errKind = some k → e ≠ .reset → hostStep e s = .next t →
    t.errKindPort = k.code ∧ t.errAddrPort = s.errAddr ∧ t.fatalPort = true ∧ t.runningPort = false ∧
    t.presentPort = false ∧ t.buzzPort = false
end

