-- ==== Sys2Proof/Laws/Decode.lean ====
section
/-! SUPPORT. The fields of a packed word are the operands it was packed from (spec 30_encoding.md R91). -/

namespace Sys2Proof

@[simp] theorem opField_packNNN (op : BitVec 4) (nnn : Addr12) : opField (packNNN op nnn) = op := by
  refine BitVec.eq_of_getLsbD_eq fun i hi => ?_
  simp only [opField, packNNN, BitVec.getLsbD_extractLsb', BitVec.getLsbD_append]
  simp [hi]

@[simp] theorem nnnField_packNNN (op : BitVec 4) (nnn : Addr12) : nnnField (packNNN op nnn) = nnn := by
  refine BitVec.eq_of_getLsbD_eq fun i hi => ?_
  simp only [nnnField, packNNN, BitVec.getLsbD_extractLsb', BitVec.getLsbD_append]
  simp [hi]

theorem kkField_packNNN (op : BitVec 4) (nnn : Addr12) : kkField (packNNN op nnn) = nnn.setWidth 8 := by
  refine BitVec.eq_of_getLsbD_eq fun i hi => ?_
  simp only [kkField, packNNN, BitVec.getLsbD_extractLsb', BitVec.getLsbD_append, BitVec.getLsbD_setWidth]
  simp [hi, show i < 12 by omega]

@[simp] theorem opField_packXKK (op : BitVec 4) (x : Reg) (kk : Byte) : opField (packXKK op x kk) = op := by
  simp [packXKK]

@[simp] theorem xField_packXKK (op : BitVec 4) (x : Reg) (kk : Byte) : xField (packXKK op x kk) = x := by
  have h : BitVec.extractLsb' 8 4 (packXKK op x kk) = BitVec.ofFin x := by
    refine BitVec.eq_of_getLsbD_eq fun i hi => ?_
    simp only [packXKK, packNNN, BitVec.getLsbD_extractLsb', BitVec.getLsbD_append]
    simp [hi, show 8 + i < 12 by omega]
  simp [xField, h]

@[simp] theorem kkField_packXKK (op : BitVec 4) (x : Reg) (kk : Byte) : kkField (packXKK op x kk) = kk := by
  rw [packXKK, kkField_packNNN]
  refine BitVec.eq_of_getLsbD_eq fun i hi => ?_
  simp only [BitVec.getLsbD_setWidth, BitVec.getLsbD_append]
  simp [hi]

@[simp] theorem opField_packXYN (op : BitVec 4) (x y : Reg) (n : BitVec 4) : opField (packXYN op x y n) = op := by
  simp [packXYN]

@[simp] theorem xField_packXYN (op : BitVec 4) (x y : Reg) (n : BitVec 4) : xField (packXYN op x y n) = x := by
  simp [packXYN]

/-- The byte a two-nibble tail of a word is. -/
theorem yn_of_kk (w : Word) (y : Reg) (n : BitVec 4) (h : kkField w = BitVec.ofFin y ++ n) :
    yField w = y ∧ nField w = n.toFin := by
  have hk : ∀ i, i < 8 → w.getLsbD i = (BitVec.ofFin y ++ n : Byte).getLsbD i := by
    intro i hi
    rw [← h, kkField, BitVec.getLsbD_extractLsb']
    simp [hi]
  have h1 : BitVec.extractLsb' 4 4 w = BitVec.ofFin y := by
    refine BitVec.eq_of_getLsbD_eq fun i hi => ?_
    rw [BitVec.getLsbD_extractLsb', hk _ (by omega), BitVec.getLsbD_append]
    simp [hi]
  have h2 : BitVec.extractLsb' 0 4 w = n := by
    refine BitVec.eq_of_getLsbD_eq fun i hi => ?_
    rw [BitVec.getLsbD_extractLsb', hk _ (by omega), BitVec.getLsbD_append]
    simp [hi]
  exact ⟨by simp [yField, h1], by simp [nField, h2]⟩

@[simp] theorem yField_packXYN (op : BitVec 4) (x y : Reg) (n : BitVec 4) : yField (packXYN op x y n) = y :=
  (yn_of_kk _ y n (by simp [packXYN])).1

@[simp] theorem nField_packXYN (op : BitVec 4) (x y : Reg) (n : BitVec 4) : nField (packXYN op x y n) = n.toFin :=
  (yn_of_kk _ y n (by simp [packXYN])).2

/-- A word is its two bytes, the more significant first (R61). -/
@[simp] theorem wordOfBytes_split (w : Word) : wordOfBytes (w.extractLsb' 8 8) (w.extractLsb' 0 8) = w := by
  refine BitVec.eq_of_getLsbD_eq fun i hi => ?_
  simp only [wordOfBytes, BitVec.getLsbD_append, BitVec.getLsbD_extractLsb']
  by_cases h : i < 8
  · simp [h]
  · simp [h, show i - 8 < 8 by omega, show 8 + (i - 8) = i by omega]

/-- A word from its two bytes as the number R61 gives. -/
theorem wordOfBytes_toNat (hi lo : Byte) : (wordOfBytes hi lo).toNat = hi.toNat * 256 + lo.toNat := by
  have := lo.isLt
  rw [wordOfBytes, BitVec.toNat_append, Nat.shiftLeft_eq]
  rw [show hi.toNat * 2 ^ 8 = 2 ^ 8 * hi.toNat by omega, ← Nat.two_pow_add_eq_or_of_lt this]
  omega

/-! ### The selector mask of the map of R99 -/

theorem packNNN_and_selector (op : BitVec 4) (nnn : Addr12) : packNNN op nnn &&& 0xF000#16 = packNNN op 0 := by
  refine BitVec.eq_of_getLsbD_eq fun i hi => ?_
  simp only [packNNN, BitVec.getLsbD_and, BitVec.getLsbD_append]
  by_cases h : i < 12
  · have : ∀ j : Fin 12, (0xF000#16).getLsbD j.val = false := by decide
    simp [h, this ⟨i, h⟩]
  · have : ∀ j : Fin 16, ¬ j.val < 12 → (0xF000#16).getLsbD j.val = true := by decide
    simp [h, this ⟨i, hi⟩ h]

theorem packXKK_and_selector (op : BitVec 4) (x : Reg) (kk : Byte) :
    packXKK op x kk &&& 0xF000#16 = packNNN op 0 := packNNN_and_selector _ _

theorem packXYN_and_selector (op : BitVec 4) (x y : Reg) (n : BitVec 4) :
    packXYN op x y n &&& 0xF000#16 = packNNN op 0 := packNNN_and_selector _ _

/-- The mask of the formats with a fixed low byte keeps the selector and that byte (R99). -/
theorem packXKK_and_lowByte (op : BitVec 4) (x : Reg) (kk : Byte) :
    packXKK op x kk &&& 0xF0FF#16 = packXKK op 0 kk := by
  refine BitVec.eq_of_getLsbD_eq fun i hi => ?_
  simp only [packXKK, packNNN, BitVec.getLsbD_and, BitVec.getLsbD_append]
  have hm : ∀ j : Fin 16, (0xF0FF#16).getLsbD j.val = (decide (j.val < 8) || decide (12 ≤ j.val)) := by decide
  have := hm ⟨i, hi⟩
  simp only at this
  rw [this]
  by_cases h1 : i < 12
  · by_cases h2 : i < 8 <;> simp [h1, h2]
  · simp [h1]; omega

/-- The mask of selector 8 keeps the selector and the low nibble (R99). -/
theorem packXYN_and_lowNibble (op : BitVec 4) (x y : Reg) (n : BitVec 4) :
    packXYN op x y n &&& 0xF00F#16 = packXYN op 0 0 n := by
  refine BitVec.eq_of_getLsbD_eq fun i hi => ?_
  simp only [packXYN, packXKK, packNNN, BitVec.getLsbD_and, BitVec.getLsbD_append]
  have hm : ∀ j : Fin 16, (0xF00F#16).getLsbD j.val = (decide (j.val < 4) || decide (12 ≤ j.val)) := by decide
  have := hm ⟨i, hi⟩
  simp only at this
  rw [this]
  by_cases h1 : i < 12
  · by_cases h2 : i < 8
    · by_cases h3 : i < 4 <;> simp [h1, h2, h3]
    · simp [h1, h2, show ¬ i < 4 by omega]
  · simp [h1]; omega

end Sys2Proof
end

