-- ==== Sys2Proof/Laws/Framebuffer.lean ====
section
/-! SUPPORT. What the Framebuffer's operations do to each pixel (spec 45_display.md R191 to R193). -/

namespace Sys2Proof.Machine

/-- A toggle changes the pixel its coordinates address and no other (R191). -/
theorem pixelAt_togglePixel (fb : Frame) (cx cy px py : Nat) :
    pixelAt (togglePixel fb cx cy) px py =
      (pixelAt fb px py ^^ decide (px % 64 = cx % 64 ∧ py % 32 = cy % 32)) := by
  have hx : cx % 64 < 64 := Nat.mod_lt _ (by decide)
  have hp : px % 64 < 64 := Nat.mod_lt _ (by decide)
  unfold pixelAt togglePixel
  by_cases hy : py % 32 = cy % 32
  · simp only [hy, Vector.getElem_set_self, BitVec.getLsbD_xor, and_true]
    congr 1
    rw [BitVec.getLsbD_shiftLeft]
    simp only [hp, decide_true, Bool.true_and, BitVec.getLsbD_one]
    by_cases h : px % 64 = cx % 64
    · simp [h]
    · simp [h]; omega
  · simp only [hy, and_false, decide_false, Bool.xor_false]
    rw [Vector.getElem_set_ne _ _ (fun h => hy h.symm)]

/-- The pixel with coordinates reduced is the same pixel (R191). -/
theorem pixelAt_mod (fb : Frame) (cx cy : Nat) : pixelAt fb (cx % 64) (cy % 32) = pixelAt fb cx cy := by
  simp [pixelAt]

theorem plotBit_fb (bit : Bool) (cx cy px py : Nat) (p : Plot) :
    pixelAt (plotBit bit cx cy p).fb px py =
      (pixelAt p.fb px py ^^ (bit && decide (px % 64 = cx % 64 ∧ py % 32 = cy % 32))) := by
  cases bit <;> simp [plotBit, pixelAt_togglePixel]

theorem plotBit_hit (bit : Bool) (cx cy : Nat) (p : Plot) :
    (plotBit bit cx cy p).hit = (p.hit || (bit && pixelAt p.fb cx cy)) := by
  cases bit <;> simp [plotBit]

/-- Two frames with the same pixels are the same frame. -/
theorem frame_ext (f g : Frame) (h : ∀ x y, x < 64 → y < 32 → pixelAt f x y = pixelAt g x y) : f = g := by
  refine Vector.ext fun y hy => ?_
  refine BitVec.eq_of_getLsbD_eq fun x hx => ?_
  have := h x y hx hy
  simpa [pixelAt, Nat.mod_eq_of_lt hx, Nat.mod_eq_of_lt hy] using this

theorem pixelAt_blank (x y : Nat) : pixelAt (Vector.replicate 32 0) x y = false := by
  simp [pixelAt]

/-! ### A whole sprite -/

/-- Bit `b` of a sprite row drawn from column `x` of line `y` is set and addresses the pixel. -/
def rowBitHits (row : Byte) (x y b px py : Nat) : Bool :=
  row.getLsbD (7 - b) && decide (px % 64 = (x + b) % 64 ∧ py % 32 = y % 32)

/-- Some 1-bit of the sprite addresses the pixel. -/
def SpriteHits (rows : List Byte) (x y px py : Nat) : Prop :=
  ∃ r b, ∃ h : r < rows.length, b < 8 ∧ rows[r].getLsbD (7 - b) = true ∧
    px % 64 = (x + b) % 64 ∧ py % 32 = (y + r) % 32

theorem plotBits_spec (row : Byte) (x y : Nat) (l : List Nat) (hl : l.Nodup) (hb : ∀ b ∈ l, b < 8) (p : Plot) :
    (∀ px py, pixelAt (l.foldl (fun p b => plotBit (row.getLsbD (7 - b)) (x + b) y p) p).fb px py =
      (pixelAt p.fb px py ^^ l.any fun b => rowBitHits row x y b px py)) ∧
    ((l.foldl (fun p b => plotBit (row.getLsbD (7 - b)) (x + b) y p) p).hit = true ↔
      p.hit = true ∨ ∃ b ∈ l, row.getLsbD (7 - b) = true ∧ pixelAt p.fb (x + b) y = true) := by
  induction l generalizing p with
  | nil => simp
  | cons b l ih =>
    have hne : ∀ c ∈ l, ¬ (x + c) % 64 = (x + b) % 64 := by
      intro c hc
      have : b ≠ c := fun h => (List.nodup_cons.1 hl).1 (h ▸ hc)
      have := hb b (by simp)
      have := hb c (by simp [hc])
      omega
    obtain ⟨ih1, ih2⟩ := ih (List.nodup_cons.1 hl).2 (fun c hc => hb c (by simp [hc]))
      (plotBit (row.getLsbD (7 - b)) (x + b) y p)
    simp only [List.foldl_cons]
    refine ⟨fun px py => ?_, ?_⟩
    · rw [ih1, plotBit_fb, List.any_cons,
        show (row.getLsbD (7 - b) && decide (px % 64 = (x + b) % 64 ∧ py % 32 = y % 32)) =
          rowBitHits row x y b px py from rfl]
      cases h : rowBitHits row x y b px py
      · simp
      · have : (l.any fun b => rowBitHits row x y b px py) = false := by
          rw [List.any_eq_false]
          intro c hc h2
          have := hne c hc
          simp only [rowBitHits, Bool.and_eq_true, decide_eq_true_eq] at h h2
          omega
        simp [this]
    · have hread : ∀ c ∈ l, pixelAt (plotBit (row.getLsbD (7 - b)) (x + b) y p).fb (x + c) y = pixelAt p.fb (x + c) y := by
        intro c hc
        simp [plotBit_fb, hne c hc]
      rw [ih2, plotBit_hit]
      simp only [Bool.or_eq_true, Bool.and_eq_true, List.mem_cons, exists_eq_or_imp, or_assoc]
      refine or_congr_right (or_congr_right (exists_congr fun c => and_congr_right fun hc => ?_))
      rw [hread c hc]

/-- What a sprite row does: each pixel a 1-bit addresses is toggled, and a lit one is a collision (R193). -/
theorem plotRow_spec (row : Byte) (x y : Nat) (p : Plot) :
    (∀ px py, pixelAt (plotRow row x y p).fb px py =
      (pixelAt p.fb px py ^^ (List.range 8).any fun b => rowBitHits row x y b px py)) ∧
    ((plotRow row x y p).hit = true ↔
      p.hit = true ∨ ∃ b ∈ List.range 8, row.getLsbD (7 - b) = true ∧ pixelAt p.fb (x + b) y = true) :=
  plotBits_spec row x y (List.range 8) List.nodup_range (by simp) p

theorem spriteHits_cons (row : Byte) (rows : List Byte) (x y px py : Nat) :
    SpriteHits (row :: rows) x y px py ↔
      ((List.range 8).any fun b => rowBitHits row x y b px py) = true ∨ SpriteHits rows x (y + 1) px py := by
  simp only [List.any_eq_true, List.mem_range, rowBitHits, Bool.and_eq_true, decide_eq_true_eq]
  constructor
  · rintro ⟨r, b, hr, hb, h1, h2, h3⟩
    cases r with
    | zero => exact .inl ⟨b, hb, by simpa using h1, h2, by simpa using h3⟩
    | succ r => exact .inr ⟨r, b, by simpa using hr, hb, by simpa using h1, h2, by omega⟩
  · rintro (⟨b, hb, h1, h2, h3⟩ | ⟨r, b, hr, hb, h1, h2, h3⟩)
    · exact ⟨0, b, by simp, hb, by simpa using h1, h2, by simpa using h3⟩
    · exact ⟨r + 1, b, by simpa using hr, hb, by simpa using h1, h2, by omega⟩

/-- Everything a sprite of at most 31 rows does: the pixels its 1-bits address are toggled, no other changes, and there
is a collision exactly when one of them was lit (R193). -/
theorem plotRows_spec (rows : List Byte) (x y : Nat) (hl : rows.length ≤ 31) (p : Plot) :
    (∀ px py, SpriteHits rows x y px py → pixelAt (plotRows rows x y p).fb px py = !pixelAt p.fb px py) ∧
    (∀ px py, ¬ SpriteHits rows x y px py → pixelAt (plotRows rows x y p).fb px py = pixelAt p.fb px py) ∧
    ((plotRows rows x y p).hit = true ↔
      p.hit = true ∨ ∃ px py, SpriteHits rows x y px py ∧ pixelAt p.fb px py = true) := by
  induction rows generalizing y p with
  | nil => simp [plotRows, SpriteHits]
  | cons row rows ih =>
    simp only [List.length_cons] at hl
    obtain ⟨r1, r2⟩ := plotRow_spec row x y p
    obtain ⟨i1, i2, i3⟩ := ih (y + 1) (by omega) (plotRow row x y p)
    have hdis : ∀ px py, SpriteHits rows x (y + 1) px py →
        ((List.range 8).any fun b => rowBitHits row x y b px py) = false := by
      rintro px py ⟨r, b', hr, hb', h1', h2', h3'⟩
      rw [List.any_eq_false]
      intro b hb h
      simp only [rowBitHits, Bool.and_eq_true, decide_eq_true_eq] at h
      omega
    refine ⟨fun px py h => ?_, fun px py h => ?_, ?_⟩
    · rw [plotRows]
      by_cases h2 : SpriteHits rows x (y + 1) px py
      · rw [i1 _ _ h2, r1, hdis _ _ h2]; simp
      · rw [i2 _ _ h2, r1, ((spriteHits_cons _ _ _ _ _ _).1 h).resolve_right h2]; simp
    · rw [spriteHits_cons, not_or, Bool.not_eq_true] at h
      rw [plotRows, i2 _ _ h.2, r1, h.1]; simp
    · rw [plotRows, i3, r2, or_assoc]
      refine or_congr_right ⟨?_, ?_⟩
      · rintro (⟨b, hb, h1, h2⟩ | ⟨px, py, h1, h2⟩)
        · refine ⟨x + b, y, (spriteHits_cons _ _ _ _ _ _).2 (.inl ?_), h2⟩
          simp only [List.any_eq_true, rowBitHits, Bool.and_eq_true, decide_eq_true_eq]
          exact ⟨b, hb, h1, rfl, trivial⟩
        · refine ⟨px, py, (spriteHits_cons _ _ _ _ _ _).2 (.inr h1), ?_⟩
          rw [r1, hdis _ _ h1] at h2
          simpa using h2
      · rintro ⟨px, py, h1, h2⟩
        by_cases h : SpriteHits rows x (y + 1) px py
        · refine .inr ⟨px, py, h, ?_⟩
          rw [r1, hdis _ _ h]
          simpa using h2
        · have h3 := ((spriteHits_cons _ _ _ _ _ _).1 h1).resolve_right h
          simp only [List.any_eq_true, rowBitHits, Bool.and_eq_true, decide_eq_true_eq] at h3
          obtain ⟨b, hb, h4, h5, h6⟩ := h3
          refine .inl ⟨b, hb, h4, ?_⟩
          rw [← pixelAt_mod, ← h5, ← h6, pixelAt_mod]
          exact h2

end Sys2Proof.Machine
end

