-- ==== Sys2Proof/Laws/Memory.lean ====
section
/-! SUPPORT. What the memory operations do: read after write, the canonical form and its preservation, and the two
primitives of spec 20_memory.md R66. -/

namespace Sys2Proof.Machine.Memory

theorem lookup_unlist (m : Memory) (a c : Nat) :
    lookup (unlist m a) c = if c = a then none else lookup m c := by
  induction m with
  | nil => simp [unlist, lookup]
  | cons p rest ih =>
    obtain ⟨k, b⟩ := p
    by_cases hk : k = a <;> by_cases hc : c = a <;> simp [unlist, lookup, hk, hc, ih] <;> grind

theorem lookup_list (m : Memory) (a c : Nat) (b : Byte) (h : lookup m a = none) :
    lookup (list m a b) c = if c = a then some b else lookup m c := by
  induction m with
  | nil => simp [list, lookup, eq_comm]
  | cons p rest ih =>
    obtain ⟨k, d⟩ := p
    simp only [lookup] at h
    have hk : ¬ k = a := by intro hk; simp [hk] at h
    simp only [hk, if_false] at h
    by_cases hlt : a < k
    · simp [list, lookup, hlt, eq_comm]
    · simp only [list, hlt, if_false, lookup, ih h]
      grind

/-- Read after write, at the address written and at every other. -/
@[simp] theorem read_write (m : Memory) (a c : Nat) (b : Byte) :
    read (write m a b) c = if c = a then b else read m c := by
  unfold write read
  split
  · rename_i hb
    rw [lookup_unlist]
    by_cases hc : c = a <;> simp [hc, hb]
  · rw [lookup_list _ _ _ _ (by simp [lookup_unlist]), lookup_unlist]
    by_cases hc : c = a <;> simp [hc]

@[simp] theorem read_nil (a : Nat) : read [] a = resetByte a := rfl

/-- Bytes written in ascending order from `a`: byte `k` lands at `a + k`, and every other address keeps its byte. -/
theorem read_writeAll (bytes : List Byte) (m : Memory) (a c : Nat) :
    read (writeAll m a bytes) c =
      if a ≤ c ∧ c < a + bytes.length then (bytes[c - a]?).getD 0 else read m c := by
  induction bytes generalizing m a with
  | nil => simp [writeAll]
  | cons b bs ih =>
    rw [writeAll, ih, read_write]
    by_cases h1 : c = a
    · subst h1; simp
    · by_cases h2 : a + 1 ≤ c ∧ c < a + 1 + bs.length
      · have h3 : a ≤ c ∧ c < a + (b :: bs).length := by simp; omega
        have h4 : c - a = (c - (a + 1)) + 1 := by omega
        rw [if_pos h2, if_pos h3, h4, List.getElem?_cons_succ]
      · have h3 : ¬ (a ≤ c ∧ c < a + (b :: bs).length) := by simp; omega
        rw [if_neg h2, if_neg h3, if_neg h1]

theorem read_writeAll_outside (bytes : List Byte) (m : Memory) (a c : Nat)
    (h : c < a ∨ a + bytes.length ≤ c) : read (writeAll m a bytes) c = read m c := by
  rw [read_writeAll, if_neg (by omega)]

/-! ### The canonical form -/

@[simp] theorem wf_nil : wf [] = true := rfl

theorem wfFrom_cons (lo k : Nat) (b : Byte) (rest : Memory) :
    wfFrom lo ((k, b) :: rest) = true ↔
      lo ≤ k ∧ k < Config.memSize ∧ b ≠ resetByte k ∧ wfFrom (k + 1) rest = true := by
  simp [wfFrom, and_assoc]

theorem wfFrom_mono (m : Memory) (lo lo' : Nat) (hl : lo' ≤ lo) (h : wfFrom lo m = true) : wfFrom lo' m = true := by
  cases m with
  | nil => rfl
  | cons p rest =>
    obtain ⟨k, b⟩ := p
    rw [wfFrom_cons] at h ⊢
    exact ⟨by omega, h.2⟩

theorem wfFrom_unlist (m : Memory) (lo a : Nat) (h : wfFrom lo m = true) : wfFrom lo (unlist m a) = true := by
  induction m generalizing lo with
  | nil => rfl
  | cons p rest ih =>
    obtain ⟨k, b⟩ := p
    rw [wfFrom_cons] at h
    unfold unlist
    split
    · exact wfFrom_mono _ (k + 1) lo (by omega) (ih _ h.2.2.2)
    · rw [wfFrom_cons]
      exact ⟨h.1, h.2.1, h.2.2.1, ih _ h.2.2.2⟩

theorem wfFrom_list (m : Memory) (lo a : Nat) (b : Byte) (ha : a < Config.memSize) (hlo : lo ≤ a)
    (hb : b ≠ resetByte a) (hn : lookup m a = none) (h : wfFrom lo m = true) : wfFrom lo (list m a b) = true := by
  induction m generalizing lo with
  | nil => simp [list, hlo, ha, hb, wfFrom]
  | cons p rest ih =>
    obtain ⟨k, c⟩ := p
    have hk : k ≠ a := by intro hk; simp [lookup, hk] at hn
    have hn' : lookup rest a = none := by simpa [lookup, hk] using hn
    rw [wfFrom_cons] at h
    unfold list
    split
    · rename_i hlt
      rw [wfFrom_cons, wfFrom_cons]
      exact ⟨hlo, ha, hb, by omega, h.2.1, h.2.2.1, h.2.2.2⟩
    · rename_i hlt
      rw [wfFrom_cons]
      exact ⟨h.1, h.2.1, h.2.2.1, ih _ (by omega) hn' h.2.2.2⟩

/-- A write to an address that exists keeps the canonical form. -/
theorem wf_write (m : Memory) (a : Nat) (b : Byte) (ha : a < Config.memSize) (h : wf m = true) :
    wf (write m a b) = true := by
  unfold write wf at *
  split
  · exact wfFrom_unlist _ _ _ h
  · rename_i hb
    exact wfFrom_list _ _ _ _ ha (Nat.zero_le _) hb (by simp [lookup_unlist]) (wfFrom_unlist _ _ _ h)

theorem wf_writeAll (bytes : List Byte) (m : Memory) (a : Nat) (ha : a + bytes.length ≤ Config.memSize)
    (h : wf m = true) : wf (writeAll m a bytes) = true := by
  induction bytes generalizing m a with
  | nil => exact h
  | cons b bs ih =>
    simp only [List.length_cons] at ha
    exact ih _ _ (by omega) (wf_write _ _ _ (by omega) h)

/-- The memory after reset is in canonical form. -/
theorem wf_reset : wf State.reset.mem = true := rfl

end Sys2Proof.Machine.Memory

namespace Sys2Proof.Machine

theorem outOfRange_iff (addr n : Nat) : outOfRange addr n = true ↔ n ≠ 0 ∧ 4096 < addr + n := by
  simp [outOfRange]

/-- `MemRead` in range: the bytes in ascending order. -/
theorem memRead_in_range (m : Memory) (addr n : Nat) (h : n = 0 ∨ addr + n ≤ 4096) :
    memRead m addr n = some ((List.range n).map fun k => Memory.read m (addr + k)) := by
  have : outOfRange addr n = false := by rw [Bool.eq_false_iff, Ne, outOfRange_iff]; omega
  simp [memRead, this]

/-- `MemRead` out of range: the raise. -/
theorem memRead_out_of_range (m : Memory) (addr n : Nat) (h : n ≠ 0) (h' : 4096 < addr + n) :
    memRead m addr n = none := by
  have : outOfRange addr n = true := (outOfRange_iff _ _).2 ⟨h, h'⟩
  simp [memRead, this]

/-- `MemWrite` in range. -/
theorem memWrite_in_range (m : Memory) (addr : Nat) (bytes : List Byte) (h : bytes = [] ∨ addr + bytes.length ≤ 4096) :
    memWrite m addr bytes = some (Memory.writeAll m addr bytes) := by
  have : outOfRange addr bytes.length = false := by
    rw [Bool.eq_false_iff, Ne, outOfRange_iff]
    rcases h with h | h
    · simp [h]
    · omega
  simp [memWrite, this]

/-- `MemWrite` out of range: the raise, nothing moved. -/
theorem memWrite_out_of_range (m : Memory) (addr : Nat) (bytes : List Byte) (h : bytes ≠ [])
    (h' : 4096 < addr + bytes.length) : memWrite m addr bytes = none := by
  have hl : bytes.length ≠ 0 := by simpa using h
  have : outOfRange addr bytes.length = true := (outOfRange_iff _ _).2 ⟨hl, h'⟩
  simp [memWrite, this]

theorem memRead_length (m : Memory) (addr n : Nat) (bytes : List Byte) (h : memRead m addr n = some bytes) :
    bytes.length = n := by
  unfold memRead at h
  split at h
  · cases h
  · cases h; simp

/-- Everything `MemWrite` can do when it answers. -/
theorem memWrite_some (m m' : Memory) (addr : Nat) (bytes : List Byte) (h : memWrite m addr bytes = some m') :
    (bytes = [] ∨ addr + bytes.length ≤ 4096) ∧ m' = Memory.writeAll m addr bytes := by
  unfold memWrite at h
  split at h
  · cases h
  · rename_i hr
    rw [outOfRange_iff] at hr
    have hl : bytes.length = 0 ↔ bytes = [] := List.length_eq_zero_iff
    refine ⟨?_, (Option.some.inj h).symm⟩
    rw [← hl]
    omega

/-- `MemWrite` keeps the canonical form. -/
theorem memWrite_wf (m m' : Memory) (addr : Nat) (bytes : List Byte) (h : memWrite m addr bytes = some m')
    (hw : Memory.wf m = true) : Memory.wf m' = true := by
  obtain ⟨hr, rfl⟩ := memWrite_some m m' addr bytes h
  rcases hr with rfl | hr
  · exact hw
  · exact Memory.wf_writeAll _ _ _ hr hw

end Sys2Proof.Machine
end

