-- ==== Sys2Proof/Laws/State.lean ====
section
/-! SUPPORT. One lemma per field of State for each state update of the machine, all true by rfl, so that no later proof
unfolds a record update; then what each register reads as after a register write. -/

namespace Sys2Proof.Machine.State

variable (s : State)

@[simp] theorem setV_v (r : Reg) (b : Byte) : (s.setV r b).v = s.v.set r b := rfl
@[simp] theorem setV_i (r : Reg) (b : Byte) : (s.setV r b).i = s.i := rfl
@[simp] theorem setV_pc (r : Reg) (b : Byte) : (s.setV r b).pc = s.pc := rfl
@[simp] theorem setV_dt (r : Reg) (b : Byte) : (s.setV r b).dt = s.dt := rfl
@[simp] theorem setV_st (r : Reg) (b : Byte) : (s.setV r b).st = s.st := rfl
@[simp] theorem setV_stack (r : Reg) (b : Byte) : (s.setV r b).stack = s.stack := rfl
@[simp] theorem setV_sp (r : Reg) (b : Byte) : (s.setV r b).sp = s.sp := rfl
@[simp] theorem setV_mem (r : Reg) (b : Byte) : (s.setV r b).mem = s.mem := rfl
@[simp] theorem setV_fb (r : Reg) (b : Byte) : (s.setV r b).fb = s.fb := rfl
@[simp] theorem setV_dirty (r : Reg) (b : Byte) : (s.setV r b).dirty = s.dirty := rfl
@[simp] theorem setV_keyq (r : Reg) (b : Byte) : (s.setV r b).keyq = s.keyq := rfl
@[simp] theorem setV_run (r : Reg) (b : Byte) : (s.setV r b).run = s.run := rfl
@[simp] theorem setV_errKind (r : Reg) (b : Byte) : (s.setV r b).errKind = s.errKind := rfl
@[simp] theorem setV_errAddr (r : Reg) (b : Byte) : (s.setV r b).errAddr = s.errAddr := rfl
@[simp] theorem setV_out (r : Reg) (b : Byte) : (s.setV r b).out = s.out := rfl
@[simp] theorem setV_rnd (r : Reg) (b : Byte) : (s.setV r b).rnd = s.rnd := rfl
@[simp] theorem setV_cycles (r : Reg) (b : Byte) : (s.setV r b).cycles = s.cycles := rfl

@[simp] theorem loadV_v (bs : List Byte) : (s.loadV bs).v = Vector.ofFn fun r : Fin 16 => (bs[r.val]?).getD s.v[r] := rfl
@[simp] theorem loadV_i (bs : List Byte) : (s.loadV bs).i = s.i := rfl
@[simp] theorem loadV_pc (bs : List Byte) : (s.loadV bs).pc = s.pc := rfl
@[simp] theorem loadV_dt (bs : List Byte) : (s.loadV bs).dt = s.dt := rfl
@[simp] theorem loadV_st (bs : List Byte) : (s.loadV bs).st = s.st := rfl
@[simp] theorem loadV_stack (bs : List Byte) : (s.loadV bs).stack = s.stack := rfl
@[simp] theorem loadV_sp (bs : List Byte) : (s.loadV bs).sp = s.sp := rfl
@[simp] theorem loadV_mem (bs : List Byte) : (s.loadV bs).mem = s.mem := rfl
@[simp] theorem loadV_fb (bs : List Byte) : (s.loadV bs).fb = s.fb := rfl
@[simp] theorem loadV_dirty (bs : List Byte) : (s.loadV bs).dirty = s.dirty := rfl
@[simp] theorem loadV_keyq (bs : List Byte) : (s.loadV bs).keyq = s.keyq := rfl
@[simp] theorem loadV_run (bs : List Byte) : (s.loadV bs).run = s.run := rfl
@[simp] theorem loadV_errKind (bs : List Byte) : (s.loadV bs).errKind = s.errKind := rfl
@[simp] theorem loadV_errAddr (bs : List Byte) : (s.loadV bs).errAddr = s.errAddr := rfl
@[simp] theorem loadV_out (bs : List Byte) : (s.loadV bs).out = s.out := rfl
@[simp] theorem loadV_rnd (bs : List Byte) : (s.loadV bs).rnd = s.rnd := rfl
@[simp] theorem loadV_cycles (bs : List Byte) : (s.loadV bs).cycles = s.cycles := rfl

@[simp] theorem setPc_v (w : Word) : (s.setPc w).v = s.v := rfl
@[simp] theorem setPc_i (w : Word) : (s.setPc w).i = s.i := rfl
@[simp] theorem setPc_pc (w : Word) : (s.setPc w).pc = w := rfl
@[simp] theorem setPc_dt (w : Word) : (s.setPc w).dt = s.dt := rfl
@[simp] theorem setPc_st (w : Word) : (s.setPc w).st = s.st := rfl
@[simp] theorem setPc_stack (w : Word) : (s.setPc w).stack = s.stack := rfl
@[simp] theorem setPc_sp (w : Word) : (s.setPc w).sp = s.sp := rfl
@[simp] theorem setPc_mem (w : Word) : (s.setPc w).mem = s.mem := rfl
@[simp] theorem setPc_fb (w : Word) : (s.setPc w).fb = s.fb := rfl
@[simp] theorem setPc_dirty (w : Word) : (s.setPc w).dirty = s.dirty := rfl
@[simp] theorem setPc_keyq (w : Word) : (s.setPc w).keyq = s.keyq := rfl
@[simp] theorem setPc_run (w : Word) : (s.setPc w).run = s.run := rfl
@[simp] theorem setPc_errKind (w : Word) : (s.setPc w).errKind = s.errKind := rfl
@[simp] theorem setPc_errAddr (w : Word) : (s.setPc w).errAddr = s.errAddr := rfl
@[simp] theorem setPc_out (w : Word) : (s.setPc w).out = s.out := rfl
@[simp] theorem setPc_rnd (w : Word) : (s.setPc w).rnd = s.rnd := rfl
@[simp] theorem setPc_cycles (w : Word) : (s.setPc w).cycles = s.cycles := rfl

@[simp] theorem setI_v (w : Word) : (s.setI w).v = s.v := rfl
@[simp] theorem setI_i (w : Word) : (s.setI w).i = w := rfl
@[simp] theorem setI_pc (w : Word) : (s.setI w).pc = s.pc := rfl
@[simp] theorem setI_dt (w : Word) : (s.setI w).dt = s.dt := rfl
@[simp] theorem setI_st (w : Word) : (s.setI w).st = s.st := rfl
@[simp] theorem setI_stack (w : Word) : (s.setI w).stack = s.stack := rfl
@[simp] theorem setI_sp (w : Word) : (s.setI w).sp = s.sp := rfl
@[simp] theorem setI_mem (w : Word) : (s.setI w).mem = s.mem := rfl
@[simp] theorem setI_fb (w : Word) : (s.setI w).fb = s.fb := rfl
@[simp] theorem setI_dirty (w : Word) : (s.setI w).dirty = s.dirty := rfl
@[simp] theorem setI_keyq (w : Word) : (s.setI w).keyq = s.keyq := rfl
@[simp] theorem setI_run (w : Word) : (s.setI w).run = s.run := rfl
@[simp] theorem setI_errKind (w : Word) : (s.setI w).errKind = s.errKind := rfl
@[simp] theorem setI_errAddr (w : Word) : (s.setI w).errAddr = s.errAddr := rfl
@[simp] theorem setI_out (w : Word) : (s.setI w).out = s.out := rfl
@[simp] theorem setI_rnd (w : Word) : (s.setI w).rnd = s.rnd := rfl
@[simp] theorem setI_cycles (w : Word) : (s.setI w).cycles = s.cycles := rfl

@[simp] theorem setDt_v (b : Byte) : (s.setDt b).v = s.v := rfl
@[simp] theorem setDt_i (b : Byte) : (s.setDt b).i = s.i := rfl
@[simp] theorem setDt_pc (b : Byte) : (s.setDt b).pc = s.pc := rfl
@[simp] theorem setDt_dt (b : Byte) : (s.setDt b).dt = b := rfl
@[simp] theorem setDt_st (b : Byte) : (s.setDt b).st = s.st := rfl
@[simp] theorem setDt_stack (b : Byte) : (s.setDt b).stack = s.stack := rfl
@[simp] theorem setDt_sp (b : Byte) : (s.setDt b).sp = s.sp := rfl
@[simp] theorem setDt_mem (b : Byte) : (s.setDt b).mem = s.mem := rfl
@[simp] theorem setDt_fb (b : Byte) : (s.setDt b).fb = s.fb := rfl
@[simp] theorem setDt_dirty (b : Byte) : (s.setDt b).dirty = s.dirty := rfl
@[simp] theorem setDt_keyq (b : Byte) : (s.setDt b).keyq = s.keyq := rfl
@[simp] theorem setDt_run (b : Byte) : (s.setDt b).run = s.run := rfl
@[simp] theorem setDt_errKind (b : Byte) : (s.setDt b).errKind = s.errKind := rfl
@[simp] theorem setDt_errAddr (b : Byte) : (s.setDt b).errAddr = s.errAddr := rfl
@[simp] theorem setDt_out (b : Byte) : (s.setDt b).out = s.out := rfl
@[simp] theorem setDt_rnd (b : Byte) : (s.setDt b).rnd = s.rnd := rfl
@[simp] theorem setDt_cycles (b : Byte) : (s.setDt b).cycles = s.cycles := rfl

@[simp] theorem setSt_v (b : Byte) : (s.setSt b).v = s.v := rfl
@[simp] theorem setSt_i (b : Byte) : (s.setSt b).i = s.i := rfl
@[simp] theorem setSt_pc (b : Byte) : (s.setSt b).pc = s.pc := rfl
@[simp] theorem setSt_dt (b : Byte) : (s.setSt b).dt = s.dt := rfl
@[simp] theorem setSt_st (b : Byte) : (s.setSt b).st = b := rfl
@[simp] theorem setSt_stack (b : Byte) : (s.setSt b).stack = s.stack := rfl
@[simp] theorem setSt_sp (b : Byte) : (s.setSt b).sp = s.sp := rfl
@[simp] theorem setSt_mem (b : Byte) : (s.setSt b).mem = s.mem := rfl
@[simp] theorem setSt_fb (b : Byte) : (s.setSt b).fb = s.fb := rfl
@[simp] theorem setSt_dirty (b : Byte) : (s.setSt b).dirty = s.dirty := rfl
@[simp] theorem setSt_keyq (b : Byte) : (s.setSt b).keyq = s.keyq := rfl
@[simp] theorem setSt_run (b : Byte) : (s.setSt b).run = s.run := rfl
@[simp] theorem setSt_errKind (b : Byte) : (s.setSt b).errKind = s.errKind := rfl
@[simp] theorem setSt_errAddr (b : Byte) : (s.setSt b).errAddr = s.errAddr := rfl
@[simp] theorem setSt_out (b : Byte) : (s.setSt b).out = s.out := rfl
@[simp] theorem setSt_rnd (b : Byte) : (s.setSt b).rnd = s.rnd := rfl
@[simp] theorem setSt_cycles (b : Byte) : (s.setSt b).cycles = s.cycles := rfl

@[simp] theorem setMem_v (m : Memory) : (s.setMem m).v = s.v := rfl
@[simp] theorem setMem_i (m : Memory) : (s.setMem m).i = s.i := rfl
@[simp] theorem setMem_pc (m : Memory) : (s.setMem m).pc = s.pc := rfl
@[simp] theorem setMem_dt (m : Memory) : (s.setMem m).dt = s.dt := rfl
@[simp] theorem setMem_st (m : Memory) : (s.setMem m).st = s.st := rfl
@[simp] theorem setMem_stack (m : Memory) : (s.setMem m).stack = s.stack := rfl
@[simp] theorem setMem_sp (m : Memory) : (s.setMem m).sp = s.sp := rfl
@[simp] theorem setMem_mem (m : Memory) : (s.setMem m).mem = m := rfl
@[simp] theorem setMem_fb (m : Memory) : (s.setMem m).fb = s.fb := rfl
@[simp] theorem setMem_dirty (m : Memory) : (s.setMem m).dirty = s.dirty := rfl
@[simp] theorem setMem_keyq (m : Memory) : (s.setMem m).keyq = s.keyq := rfl
@[simp] theorem setMem_run (m : Memory) : (s.setMem m).run = s.run := rfl
@[simp] theorem setMem_errKind (m : Memory) : (s.setMem m).errKind = s.errKind := rfl
@[simp] theorem setMem_errAddr (m : Memory) : (s.setMem m).errAddr = s.errAddr := rfl
@[simp] theorem setMem_out (m : Memory) : (s.setMem m).out = s.out := rfl
@[simp] theorem setMem_rnd (m : Memory) : (s.setMem m).rnd = s.rnd := rfl
@[simp] theorem setMem_cycles (m : Memory) : (s.setMem m).cycles = s.cycles := rfl

@[simp] theorem setKeyq_v (q : List KeySymbol) : (s.setKeyq q).v = s.v := rfl
@[simp] theorem setKeyq_i (q : List KeySymbol) : (s.setKeyq q).i = s.i := rfl
@[simp] theorem setKeyq_pc (q : List KeySymbol) : (s.setKeyq q).pc = s.pc := rfl
@[simp] theorem setKeyq_dt (q : List KeySymbol) : (s.setKeyq q).dt = s.dt := rfl
@[simp] theorem setKeyq_st (q : List KeySymbol) : (s.setKeyq q).st = s.st := rfl
@[simp] theorem setKeyq_stack (q : List KeySymbol) : (s.setKeyq q).stack = s.stack := rfl
@[simp] theorem setKeyq_sp (q : List KeySymbol) : (s.setKeyq q).sp = s.sp := rfl
@[simp] theorem setKeyq_mem (q : List KeySymbol) : (s.setKeyq q).mem = s.mem := rfl
@[simp] theorem setKeyq_fb (q : List KeySymbol) : (s.setKeyq q).fb = s.fb := rfl
@[simp] theorem setKeyq_dirty (q : List KeySymbol) : (s.setKeyq q).dirty = s.dirty := rfl
@[simp] theorem setKeyq_keyq (q : List KeySymbol) : (s.setKeyq q).keyq = q := rfl
@[simp] theorem setKeyq_run (q : List KeySymbol) : (s.setKeyq q).run = s.run := rfl
@[simp] theorem setKeyq_errKind (q : List KeySymbol) : (s.setKeyq q).errKind = s.errKind := rfl
@[simp] theorem setKeyq_errAddr (q : List KeySymbol) : (s.setKeyq q).errAddr = s.errAddr := rfl
@[simp] theorem setKeyq_out (q : List KeySymbol) : (s.setKeyq q).out = s.out := rfl
@[simp] theorem setKeyq_rnd (q : List KeySymbol) : (s.setKeyq q).rnd = s.rnd := rfl
@[simp] theorem setKeyq_cycles (q : List KeySymbol) : (s.setKeyq q).cycles = s.cycles := rfl

@[simp] theorem setStack_v (k : Vector Word 16) (n : Fin 17) : (s.setStack k n).v = s.v := rfl
@[simp] theorem setStack_i (k : Vector Word 16) (n : Fin 17) : (s.setStack k n).i = s.i := rfl
@[simp] theorem setStack_pc (k : Vector Word 16) (n : Fin 17) : (s.setStack k n).pc = s.pc := rfl
@[simp] theorem setStack_dt (k : Vector Word 16) (n : Fin 17) : (s.setStack k n).dt = s.dt := rfl
@[simp] theorem setStack_st (k : Vector Word 16) (n : Fin 17) : (s.setStack k n).st = s.st := rfl
@[simp] theorem setStack_stack (k : Vector Word 16) (n : Fin 17) : (s.setStack k n).stack = k := rfl
@[simp] theorem setStack_sp (k : Vector Word 16) (n : Fin 17) : (s.setStack k n).sp = n := rfl
@[simp] theorem setStack_mem (k : Vector Word 16) (n : Fin 17) : (s.setStack k n).mem = s.mem := rfl
@[simp] theorem setStack_fb (k : Vector Word 16) (n : Fin 17) : (s.setStack k n).fb = s.fb := rfl
@[simp] theorem setStack_dirty (k : Vector Word 16) (n : Fin 17) : (s.setStack k n).dirty = s.dirty := rfl
@[simp] theorem setStack_keyq (k : Vector Word 16) (n : Fin 17) : (s.setStack k n).keyq = s.keyq := rfl
@[simp] theorem setStack_run (k : Vector Word 16) (n : Fin 17) : (s.setStack k n).run = s.run := rfl
@[simp] theorem setStack_errKind (k : Vector Word 16) (n : Fin 17) : (s.setStack k n).errKind = s.errKind := rfl
@[simp] theorem setStack_errAddr (k : Vector Word 16) (n : Fin 17) : (s.setStack k n).errAddr = s.errAddr := rfl
@[simp] theorem setStack_out (k : Vector Word 16) (n : Fin 17) : (s.setStack k n).out = s.out := rfl
@[simp] theorem setStack_rnd (k : Vector Word 16) (n : Fin 17) : (s.setStack k n).rnd = s.rnd := rfl
@[simp] theorem setStack_cycles (k : Vector Word 16) (n : Fin 17) : (s.setStack k n).cycles = s.cycles := rfl

@[simp] theorem report_v (k : ErrKind) : (s.report k).v = s.v := rfl
@[simp] theorem report_i (k : ErrKind) : (s.report k).i = s.i := rfl
@[simp] theorem report_pc (k : ErrKind) : (s.report k).pc = s.pc := rfl
@[simp] theorem report_dt (k : ErrKind) : (s.report k).dt = s.dt := rfl
@[simp] theorem report_st (k : ErrKind) : (s.report k).st = s.st := rfl
@[simp] theorem report_stack (k : ErrKind) : (s.report k).stack = s.stack := rfl
@[simp] theorem report_sp (k : ErrKind) : (s.report k).sp = s.sp := rfl
@[simp] theorem report_mem (k : ErrKind) : (s.report k).mem = s.mem := rfl
@[simp] theorem report_fb (k : ErrKind) : (s.report k).fb = s.fb := rfl
@[simp] theorem report_dirty (k : ErrKind) : (s.report k).dirty = s.dirty := rfl
@[simp] theorem report_keyq (k : ErrKind) : (s.report k).keyq = s.keyq := rfl
@[simp] theorem report_run (k : ErrKind) : (s.report k).run = s.run := rfl
@[simp] theorem report_errKind (k : ErrKind) : (s.report k).errKind = s.errKind := rfl
@[simp] theorem report_errAddr (k : ErrKind) : (s.report k).errAddr = s.errAddr := rfl
@[simp] theorem report_out (k : ErrKind) : (s.report k).out = { s.out with err := some (k, s.fetchAddr) } := rfl
@[simp] theorem report_rnd (k : ErrKind) : (s.report k).rnd = s.rnd := rfl
@[simp] theorem report_cycles (k : ErrKind) : (s.report k).cycles = s.cycles := rfl

@[simp] theorem stopFatally_v (k : ErrKind) : (s.stopFatally k).v = s.v := rfl
@[simp] theorem stopFatally_i (k : ErrKind) : (s.stopFatally k).i = s.i := rfl
@[simp] theorem stopFatally_pc (k : ErrKind) : (s.stopFatally k).pc = s.pc := rfl
@[simp] theorem stopFatally_dt (k : ErrKind) : (s.stopFatally k).dt = s.dt := rfl
@[simp] theorem stopFatally_st (k : ErrKind) : (s.stopFatally k).st = s.st := rfl
@[simp] theorem stopFatally_stack (k : ErrKind) : (s.stopFatally k).stack = s.stack := rfl
@[simp] theorem stopFatally_sp (k : ErrKind) : (s.stopFatally k).sp = s.sp := rfl
@[simp] theorem stopFatally_mem (k : ErrKind) : (s.stopFatally k).mem = s.mem := rfl
@[simp] theorem stopFatally_fb (k : ErrKind) : (s.stopFatally k).fb = s.fb := rfl
@[simp] theorem stopFatally_dirty (k : ErrKind) : (s.stopFatally k).dirty = s.dirty := rfl
@[simp] theorem stopFatally_keyq (k : ErrKind) : (s.stopFatally k).keyq = s.keyq := rfl
@[simp] theorem stopFatally_run (k : ErrKind) : (s.stopFatally k).run = .stopped := rfl
@[simp] theorem stopFatally_errKind (k : ErrKind) : (s.stopFatally k).errKind = some k := rfl
@[simp] theorem stopFatally_errAddr (k : ErrKind) : (s.stopFatally k).errAddr = s.fetchAddr := rfl
@[simp] theorem stopFatally_out (k : ErrKind) : (s.stopFatally k).out = s.out := rfl
@[simp] theorem stopFatally_rnd (k : ErrKind) : (s.stopFatally k).rnd = s.rnd := rfl
@[simp] theorem stopFatally_cycles (k : ErrKind) : (s.stopFatally k).cycles = s.cycles := rfl

@[simp] theorem clearFrame_v : (s.clearFrame).v = s.v := rfl
@[simp] theorem clearFrame_i : (s.clearFrame).i = s.i := rfl
@[simp] theorem clearFrame_pc : (s.clearFrame).pc = s.pc := rfl
@[simp] theorem clearFrame_dt : (s.clearFrame).dt = s.dt := rfl
@[simp] theorem clearFrame_st : (s.clearFrame).st = s.st := rfl
@[simp] theorem clearFrame_stack : (s.clearFrame).stack = s.stack := rfl
@[simp] theorem clearFrame_sp : (s.clearFrame).sp = s.sp := rfl
@[simp] theorem clearFrame_mem : (s.clearFrame).mem = s.mem := rfl
@[simp] theorem clearFrame_fb : (s.clearFrame).fb = Vector.replicate 32 0 := rfl
@[simp] theorem clearFrame_dirty : (s.clearFrame).dirty = true := rfl
@[simp] theorem clearFrame_keyq : (s.clearFrame).keyq = s.keyq := rfl
@[simp] theorem clearFrame_run : (s.clearFrame).run = s.run := rfl
@[simp] theorem clearFrame_errKind : (s.clearFrame).errKind = s.errKind := rfl
@[simp] theorem clearFrame_errAddr : (s.clearFrame).errAddr = s.errAddr := rfl
@[simp] theorem clearFrame_out : (s.clearFrame).out = s.out := rfl
@[simp] theorem clearFrame_rnd : (s.clearFrame).rnd = s.rnd := rfl
@[simp] theorem clearFrame_cycles : (s.clearFrame).cycles = s.cycles := rfl

@[simp] theorem tickTimers_v : (s.tickTimers).v = s.v := rfl
@[simp] theorem tickTimers_i : (s.tickTimers).i = s.i := rfl
@[simp] theorem tickTimers_pc : (s.tickTimers).pc = s.pc := rfl
@[simp] theorem tickTimers_dt : (s.tickTimers).dt = decTimer s.dt := rfl
@[simp] theorem tickTimers_st : (s.tickTimers).st = decTimer s.st := rfl
@[simp] theorem tickTimers_stack : (s.tickTimers).stack = s.stack := rfl
@[simp] theorem tickTimers_sp : (s.tickTimers).sp = s.sp := rfl
@[simp] theorem tickTimers_mem : (s.tickTimers).mem = s.mem := rfl
@[simp] theorem tickTimers_fb : (s.tickTimers).fb = s.fb := rfl
@[simp] theorem tickTimers_dirty : (s.tickTimers).dirty = s.dirty := rfl
@[simp] theorem tickTimers_keyq : (s.tickTimers).keyq = s.keyq := rfl
@[simp] theorem tickTimers_run : (s.tickTimers).run = s.run := rfl
@[simp] theorem tickTimers_errKind : (s.tickTimers).errKind = s.errKind := rfl
@[simp] theorem tickTimers_errAddr : (s.tickTimers).errAddr = s.errAddr := rfl
@[simp] theorem tickTimers_out : (s.tickTimers).out = s.out := rfl
@[simp] theorem tickTimers_rnd : (s.tickTimers).rnd = s.rnd := rfl
@[simp] theorem tickTimers_cycles : (s.tickTimers).cycles = s.cycles := rfl

@[simp] theorem beginCycle_v (b : Byte) : (s.beginCycle b).v = s.v := rfl
@[simp] theorem beginCycle_i (b : Byte) : (s.beginCycle b).i = s.i := rfl
@[simp] theorem beginCycle_pc (b : Byte) : (s.beginCycle b).pc = s.pc := rfl
@[simp] theorem beginCycle_dt (b : Byte) : (s.beginCycle b).dt = s.dt := rfl
@[simp] theorem beginCycle_st (b : Byte) : (s.beginCycle b).st = s.st := rfl
@[simp] theorem beginCycle_stack (b : Byte) : (s.beginCycle b).stack = s.stack := rfl
@[simp] theorem beginCycle_sp (b : Byte) : (s.beginCycle b).sp = s.sp := rfl
@[simp] theorem beginCycle_mem (b : Byte) : (s.beginCycle b).mem = s.mem := rfl
@[simp] theorem beginCycle_fb (b : Byte) : (s.beginCycle b).fb = s.fb := rfl
@[simp] theorem beginCycle_dirty (b : Byte) : (s.beginCycle b).dirty = s.dirty := rfl
@[simp] theorem beginCycle_keyq (b : Byte) : (s.beginCycle b).keyq = s.keyq := rfl
@[simp] theorem beginCycle_run (b : Byte) : (s.beginCycle b).run = s.run := rfl
@[simp] theorem beginCycle_errKind (b : Byte) : (s.beginCycle b).errKind = s.errKind := rfl
@[simp] theorem beginCycle_errAddr (b : Byte) : (s.beginCycle b).errAddr = s.errAddr := rfl
@[simp] theorem beginCycle_out (b : Byte) : (s.beginCycle b).out = CycleOut.quiet := rfl
@[simp] theorem beginCycle_rnd (b : Byte) : (s.beginCycle b).rnd = b := rfl
@[simp] theorem beginCycle_cycles (b : Byte) : (s.beginCycle b).cycles = s.cycles + 1 := rfl

@[simp] theorem advancePc_v : (s.advancePc).v = s.v := rfl
@[simp] theorem advancePc_i : (s.advancePc).i = s.i := rfl
@[simp] theorem advancePc_pc : (s.advancePc).pc = s.pc + 2 := rfl
@[simp] theorem advancePc_dt : (s.advancePc).dt = s.dt := rfl
@[simp] theorem advancePc_st : (s.advancePc).st = s.st := rfl
@[simp] theorem advancePc_stack : (s.advancePc).stack = s.stack := rfl
@[simp] theorem advancePc_sp : (s.advancePc).sp = s.sp := rfl
@[simp] theorem advancePc_mem : (s.advancePc).mem = s.mem := rfl
@[simp] theorem advancePc_fb : (s.advancePc).fb = s.fb := rfl
@[simp] theorem advancePc_dirty : (s.advancePc).dirty = s.dirty := rfl
@[simp] theorem advancePc_keyq : (s.advancePc).keyq = s.keyq := rfl
@[simp] theorem advancePc_run : (s.advancePc).run = s.run := rfl
@[simp] theorem advancePc_errKind : (s.advancePc).errKind = s.errKind := rfl
@[simp] theorem advancePc_errAddr : (s.advancePc).errAddr = s.errAddr := rfl
@[simp] theorem advancePc_out : (s.advancePc).out = s.out := rfl
@[simp] theorem advancePc_rnd : (s.advancePc).rnd = s.rnd := rfl
@[simp] theorem advancePc_cycles : (s.advancePc).cycles = s.cycles := rfl

@[simp] theorem cancel_v : (s.cancel).v = s.v := rfl
@[simp] theorem cancel_i : (s.cancel).i = s.i := rfl
@[simp] theorem cancel_pc : (s.cancel).pc = s.pc := rfl
@[simp] theorem cancel_dt : (s.cancel).dt = s.dt := rfl
@[simp] theorem cancel_st : (s.cancel).st = s.st := rfl
@[simp] theorem cancel_stack : (s.cancel).stack = s.stack := rfl
@[simp] theorem cancel_sp : (s.cancel).sp = s.sp := rfl
@[simp] theorem cancel_mem : (s.cancel).mem = s.mem := rfl
@[simp] theorem cancel_fb : (s.cancel).fb = s.fb := rfl
@[simp] theorem cancel_dirty : (s.cancel).dirty = s.dirty := rfl
@[simp] theorem cancel_keyq : (s.cancel).keyq = s.keyq := rfl
@[simp] theorem cancel_run : (s.cancel).run = .stopped := rfl
@[simp] theorem cancel_errKind : (s.cancel).errKind = s.errKind := rfl
@[simp] theorem cancel_errAddr : (s.cancel).errAddr = s.errAddr := rfl
@[simp] theorem cancel_out : (s.cancel).out = s.out := rfl
@[simp] theorem cancel_rnd : (s.cancel).rnd = s.rnd := rfl
@[simp] theorem cancel_cycles : (s.cancel).cycles = s.cycles := rfl

/-! ### Registers -/

theorem getV_def (r : Reg) : s.getV r = s.v[r] := rfl

@[simp] theorem getV_setV (x r : Reg) (b : Byte) : (s.setV x b).getV r = if r = x then b else s.getV r := by
  simp only [getV_def, setV_v, Fin.getElem_fin, Vector.getElem_set, Fin.ext_iff, eq_comm]

theorem getV_setV_self (x : Reg) (b : Byte) : (s.setV x b).getV x = b := by simp

theorem getV_setV_ne (x r : Reg) (b : Byte) (h : r ≠ x) : (s.setV x b).getV r = s.getV r := by simp [h]

@[simp] theorem getV_loadV (bs : List Byte) (r : Reg) : (s.loadV bs).getV r = (bs[r.val]?).getD (s.getV r) := by
  simp [getV_def]

@[simp] theorem getV_setPc (w : Word) (r : Reg) : (s.setPc w).getV r = s.getV r := rfl
@[simp] theorem getV_setI (w : Word) (r : Reg) : (s.setI w).getV r = s.getV r := rfl
@[simp] theorem getV_setDt (b : Byte) (r : Reg) : (s.setDt b).getV r = s.getV r := rfl
@[simp] theorem getV_setSt (b : Byte) (r : Reg) : (s.setSt b).getV r = s.getV r := rfl
@[simp] theorem getV_setMem (m : Memory) (r : Reg) : (s.setMem m).getV r = s.getV r := rfl
@[simp] theorem getV_setKeyq (q : List KeySymbol) (r : Reg) : (s.setKeyq q).getV r = s.getV r := rfl
@[simp] theorem getV_setStack (k : Vector Word 16) (n : Fin 17) (r : Reg) : (s.setStack k n).getV r = s.getV r := rfl
@[simp] theorem getV_report (k : ErrKind) (r : Reg) : (s.report k).getV r = s.getV r := rfl
@[simp] theorem getV_stopFatally (k : ErrKind) (r : Reg) : (s.stopFatally k).getV r = s.getV r := rfl
@[simp] theorem getV_clearFrame (r : Reg) : (s.clearFrame).getV r = s.getV r := rfl
@[simp] theorem getV_tickTimers (r : Reg) : (s.tickTimers).getV r = s.getV r := rfl
@[simp] theorem getV_beginCycle (b : Byte) (r : Reg) : (s.beginCycle b).getV r = s.getV r := rfl
@[simp] theorem getV_advancePc (r : Reg) : (s.advancePc).getV r = s.getV r := rfl
@[simp] theorem getV_cancel (r : Reg) : (s.cancel).getV r = s.getV r := rfl

/-! ### Skips change `pc` alone -/

@[simp] theorem skipIf_v (c : Bool) : (s.skipIf c).v = s.v := by cases c <;> rfl
@[simp] theorem skipIf_i (c : Bool) : (s.skipIf c).i = s.i := by cases c <;> rfl
@[simp] theorem skipIf_pc (c : Bool) : (s.skipIf c).pc = if c then s.pc + 2 else s.pc := by cases c <;> rfl
@[simp] theorem skipIf_dt (c : Bool) : (s.skipIf c).dt = s.dt := by cases c <;> rfl
@[simp] theorem skipIf_st (c : Bool) : (s.skipIf c).st = s.st := by cases c <;> rfl
@[simp] theorem skipIf_stack (c : Bool) : (s.skipIf c).stack = s.stack := by cases c <;> rfl
@[simp] theorem skipIf_sp (c : Bool) : (s.skipIf c).sp = s.sp := by cases c <;> rfl
@[simp] theorem skipIf_mem (c : Bool) : (s.skipIf c).mem = s.mem := by cases c <;> rfl
@[simp] theorem skipIf_fb (c : Bool) : (s.skipIf c).fb = s.fb := by cases c <;> rfl
@[simp] theorem skipIf_dirty (c : Bool) : (s.skipIf c).dirty = s.dirty := by cases c <;> rfl
@[simp] theorem skipIf_keyq (c : Bool) : (s.skipIf c).keyq = s.keyq := by cases c <;> rfl
@[simp] theorem skipIf_run (c : Bool) : (s.skipIf c).run = s.run := by cases c <;> rfl
@[simp] theorem skipIf_errKind (c : Bool) : (s.skipIf c).errKind = s.errKind := by cases c <;> rfl
@[simp] theorem skipIf_errAddr (c : Bool) : (s.skipIf c).errAddr = s.errAddr := by cases c <;> rfl
@[simp] theorem skipIf_out (c : Bool) : (s.skipIf c).out = s.out := by cases c <;> rfl
@[simp] theorem skipIf_rnd (c : Bool) : (s.skipIf c).rnd = s.rnd := by cases c <;> rfl
@[simp] theorem skipIf_cycles (c : Bool) : (s.skipIf c).cycles = s.cycles := by cases c <;> rfl
@[simp] theorem getV_skipIf (c : Bool) (r : Reg) : (s.skipIf c).getV r = s.getV r := by cases c <;> rfl

/-! ### A sprite draw changes `fb` and `dirty` alone -/

@[simp] theorem drawSprite_v (rows : List Byte) (x y : Nat) : (s.drawSprite rows x y).2.v = s.v := rfl
@[simp] theorem drawSprite_i (rows : List Byte) (x y : Nat) : (s.drawSprite rows x y).2.i = s.i := rfl
@[simp] theorem drawSprite_pc (rows : List Byte) (x y : Nat) : (s.drawSprite rows x y).2.pc = s.pc := rfl
@[simp] theorem drawSprite_dt (rows : List Byte) (x y : Nat) : (s.drawSprite rows x y).2.dt = s.dt := rfl
@[simp] theorem drawSprite_st (rows : List Byte) (x y : Nat) : (s.drawSprite rows x y).2.st = s.st := rfl
@[simp] theorem drawSprite_stack (rows : List Byte) (x y : Nat) : (s.drawSprite rows x y).2.stack = s.stack := rfl
@[simp] theorem drawSprite_sp (rows : List Byte) (x y : Nat) : (s.drawSprite rows x y).2.sp = s.sp := rfl
@[simp] theorem drawSprite_mem (rows : List Byte) (x y : Nat) : (s.drawSprite rows x y).2.mem = s.mem := rfl
@[simp] theorem drawSprite_fb (rows : List Byte) (x y : Nat) :
    (s.drawSprite rows x y).2.fb = (plotRows rows x y { fb := s.fb, hit := false }).fb := rfl
@[simp] theorem drawSprite_dirty (rows : List Byte) (x y : Nat) : (s.drawSprite rows x y).2.dirty = true := rfl
@[simp] theorem drawSprite_keyq (rows : List Byte) (x y : Nat) : (s.drawSprite rows x y).2.keyq = s.keyq := rfl
@[simp] theorem drawSprite_run (rows : List Byte) (x y : Nat) : (s.drawSprite rows x y).2.run = s.run := rfl
@[simp] theorem drawSprite_errKind (rows : List Byte) (x y : Nat) : (s.drawSprite rows x y).2.errKind = s.errKind := rfl
@[simp] theorem drawSprite_errAddr (rows : List Byte) (x y : Nat) : (s.drawSprite rows x y).2.errAddr = s.errAddr := rfl
@[simp] theorem drawSprite_out (rows : List Byte) (x y : Nat) : (s.drawSprite rows x y).2.out = s.out := rfl
@[simp] theorem drawSprite_rnd (rows : List Byte) (x y : Nat) : (s.drawSprite rows x y).2.rnd = s.rnd := rfl
@[simp] theorem drawSprite_cycles (rows : List Byte) (x y : Nat) : (s.drawSprite rows x y).2.cycles = s.cycles := rfl
@[simp] theorem getV_drawSprite (rows : List Byte) (x y : Nat) (r : Reg) :
    (s.drawSprite rows x y).2.getV r = s.getV r := rfl

@[simp] theorem drawSprite_hit (rows : List Byte) (x y : Nat) :
    (s.drawSprite rows x y).1 = (plotRows rows x y { fb := s.fb, hit := false }).hit := rfl

/-! ### The end of a cycle changes the pulses and `dirty` alone -/

@[simp] theorem endCycle_v : s.endCycle.v = s.v := by unfold endCycle; split <;> rfl
@[simp] theorem endCycle_i : s.endCycle.i = s.i := by unfold endCycle; split <;> rfl
@[simp] theorem endCycle_pc : s.endCycle.pc = s.pc := by unfold endCycle; split <;> rfl
@[simp] theorem endCycle_dt : s.endCycle.dt = s.dt := by unfold endCycle; split <;> rfl
@[simp] theorem endCycle_st : s.endCycle.st = s.st := by unfold endCycle; split <;> rfl
@[simp] theorem endCycle_stack : s.endCycle.stack = s.stack := by unfold endCycle; split <;> rfl
@[simp] theorem endCycle_sp : s.endCycle.sp = s.sp := by unfold endCycle; split <;> rfl
@[simp] theorem endCycle_mem : s.endCycle.mem = s.mem := by unfold endCycle; split <;> rfl
@[simp] theorem endCycle_fb : s.endCycle.fb = s.fb := by unfold endCycle; split <;> rfl
theorem endCycle_dirty_running (h : s.run = .running) : s.endCycle.dirty = false := by simp [endCycle, h]
@[simp] theorem endCycle_keyq : s.endCycle.keyq = s.keyq := by unfold endCycle; split <;> rfl
@[simp] theorem endCycle_run : s.endCycle.run = s.run := by unfold endCycle; split <;> rfl
@[simp] theorem endCycle_errKind : s.endCycle.errKind = s.errKind := by unfold endCycle; split <;> rfl
@[simp] theorem endCycle_errAddr : s.endCycle.errAddr = s.errAddr := by unfold endCycle; split <;> rfl
theorem endCycle_out_running (h : s.run = .running) :
    s.endCycle.out = { s.out with present := s.dirty, buzz := s.st != 0 } := by simp [endCycle, h]
theorem endCycle_out_err : s.endCycle.out.err = s.out.err := by unfold endCycle; split <;> rfl
@[simp] theorem endCycle_rnd : s.endCycle.rnd = s.rnd := by unfold endCycle; split <;> rfl
@[simp] theorem endCycle_cycles : s.endCycle.cycles = s.cycles := by unfold endCycle; split <;> rfl
@[simp] theorem getV_endCycle (r : Reg) : s.endCycle.getV r = s.getV r := by unfold endCycle; split <;> rfl

theorem endCycle_stopped (h : s.run = .stopped) : s.endCycle = s := by simp [endCycle, h]

end Sys2Proof.Machine.State
end

