-- ==== Sys2Proof/Laws/Ops.lean ====
section
/-! SUPPORT. One law per shared operation: the open parameters' constraints, the call stack, the key queue, raising an
error kind, the operand forms. -/

namespace Sys2Proof.Machine

/-! ### Parameters (spec 00_scope.md R9) -/

theorem font_fits : fontBase + 16 * fontGlyphBytes ≤ Config.progBase := Config.font.fits

theorem keybufCap_pos : 1 ≤ keybufCap := Config.keys.cap_pos

/-- Every keycode has a symbol (R9). -/
theorem keymap_onto (k : Keycode) : ∃ s, keymap s = some k := by
  obtain ⟨c, hc, hk⟩ := Config.keys.onto k
  exact ⟨⟨c, hc⟩, hk⟩

@[simp] theorem oobPolicy_abandon : oobPolicy = .abandon := rfl

/-- The reset contents of `mem`, without the shortcut of `resetByte` (R36, R39). -/
theorem resetByte_eq (a : Nat) :
    resetByte a =
      if fontBase ≤ a ∧ a < fontBase + 16 * fontGlyphBytes then fontByte (a - fontBase) else 0 := by
  have h := font_fits
  unfold resetByte
  split
  · rename_i hp
    rw [if_neg (by omega)]
  · rfl

/-! ### The call stack -/

theorem push_full (s : State) (w : Word) (h : s.sp.val = 16) : s.push w = none := by
  simp [State.push, h]

theorem push_room (s : State) (w : Word) (h : s.sp.val < 16) :
    s.push w = some (s.setStack (s.stack.set s.sp.val w h) ⟨s.sp.val + 1, by omega⟩) := by
  simp [State.push, h]

/-- Everything a push can do when it succeeds. -/
theorem push_some (s t : State) (w : Word) (h : s.push w = some t) :
    ∃ hs : s.sp.val < 16, t = s.setStack (s.stack.set s.sp.val w hs) ⟨s.sp.val + 1, by omega⟩ := by
  unfold State.push at h
  split at h
  · rename_i hs
    exact ⟨hs, (Option.some.inj h).symm⟩
  · cases h

theorem pop_empty (s : State) (h : s.sp.val = 0) : s.pop = none := by
  simp [State.pop, h]

/-- Everything a pop can do when it succeeds. -/
theorem pop_some (s t : State) (w : Word) (h : s.pop = some (w, t)) :
    ∃ hs : s.sp.val - 1 < 16, s.sp.val ≠ 0 ∧ w = s.stack[s.sp.val - 1] ∧
      t = s.setStack s.stack ⟨s.sp.val - 1, by omega⟩ := by
  unfold State.pop at h
  split at h
  · rename_i hs
    obtain ⟨rfl, rfl⟩ := Prod.mk.inj (Option.some.inj h)
    exact ⟨by have := s.sp.isLt; omega, hs, rfl, rfl⟩
  · cases h

theorem pop_nonempty (s : State) (h : s.sp.val ≠ 0) :
    s.pop = some (s.stack[s.sp.val - 1]'(by have := s.sp.isLt; omega),
      s.setStack s.stack ⟨s.sp.val - 1, by have := s.sp.isLt; omega⟩) := by
  simp [State.pop, h]

/-! ### The key queue -/

/-- What `readKey` consumes is the front of the queue: unmapped symbols, then at most one mapped one. -/
theorem readKeyFrom_spec {α : Type} (km : α → Option Keycode) (q : List α) :
    ((∀ s ∈ q, km s = none) ∧ readKeyFrom km q = (none, [])) ∨
    ∃ front s k rest, q = front ++ s :: rest ∧ (∀ u ∈ front, km u = none) ∧ km s = some k ∧
      readKeyFrom km q = (some k, rest) := by
  induction q with
  | nil => exact .inl ⟨by simp, rfl⟩
  | cons s q ih =>
    cases hs : km s with
    | some k => exact .inr ⟨[], s, k, q, rfl, by simp, hs, by simp [readKeyFrom, hs]⟩
    | none =>
      rcases ih with ⟨hall, hr⟩ | ⟨front, u, k, rest, rfl, hf, hu, hr⟩
      · exact .inl ⟨by simpa [hs] using hall, by simp [readKeyFrom, hs, hr]⟩
      · exact .inr ⟨s :: front, u, k, rest, rfl, by simpa [hs] using hf, hu, by simp [readKeyFrom, hs, hr]⟩

/-- `readKey` over unmapped symbols followed by a mapped one. -/
theorem readKeyFrom_mapped {α : Type} (km : α → Option Keycode) (front rest : List α) (s : α) (k : Keycode)
    (hf : ∀ u ∈ front, km u = none) (hs : km s = some k) : readKeyFrom km (front ++ s :: rest) = (some k, rest) := by
  induction front with
  | nil => simp [readKeyFrom, hs]
  | cons u front ih =>
    rw [List.cons_append, readKeyFrom, hf u (by simp)]
    exact ih fun v hv => hf v (by simp [hv])

/-- `readKey` over unmapped symbols alone. -/
theorem readKeyFrom_unmapped {α : Type} (km : α → Option Keycode) (q : List α) (h : ∀ u ∈ q, km u = none) :
    readKeyFrom km q = (none, []) := by
  induction q with
  | nil => rfl
  | cons u q ih =>
    rw [readKeyFrom, h u (by simp)]
    exact ih fun v hv => h v (by simp [hv])

theorem readKeyFrom_length_le {α : Type} (km : α → Option Keycode) (q : List α) :
    (readKeyFrom km q).2.length ≤ q.length := by
  induction q with
  | nil => simp [readKeyFrom]
  | cons s q ih =>
    unfold readKeyFrom
    split
    · simp
    · simp only [List.length_cons]; omega

theorem pushSymbols_length_le {α : Type} (cap : Nat) (q symbols : List α) : (pushSymbols cap q symbols).length ≤ cap := by
  simp only [pushSymbols, List.length_drop]
  omega

/-- `readKey` changes `keyq` alone. -/
theorem readKey_eq (s : State) :
    s.readKey = ((readKeyFrom keymap s.keyq).1, s.setKeyq (readKeyFrom keymap s.keyq).2) := rfl

/-! ### Raising an error kind -/

/-- The state a raise leaves (R246, R250, R252): the report, and for a fatal kind the latch and the stop. -/
def raised (k : ErrKind) (s : State) : State :=
  if k.isFatal then (s.report k).stopFatally k else s.report k

/-- Every raise answers a next state. -/
theorem raiseError_eq (k : ErrKind) (s : State) : raiseError k s = .next (raised k s) := by
  cases k <;> rfl

theorem raised_fatal (k : ErrKind) (s : State) (h : k.isFatal = true) :
    raised k s = (s.report k).stopFatally k := by
  simp [raised, h]

theorem raised_nonfatal (k : ErrKind) (s : State) (h : k.isFatal = false) : raised k s = s.report k := by
  simp [raised, h]

@[simp] theorem report_fetchAddr (s : State) (k : ErrKind) : (s.report k).fetchAddr = s.fetchAddr := rfl

/-! ### Operand forms -/

theorem regsTo_length (s : State) (x : Reg) : (s.regsTo x).length = x.val + 1 := by
  have := x.isLt
  simp [State.regsTo]

theorem regsTo_getElem (s : State) (x k : Reg) (h : k.val ≤ x.val) : (s.regsTo x)[k.val]? = some (s.getV k) := by
  have hk : k.val < s.v.toList.length := by simp
  rw [State.regsTo, List.getElem?_take_of_lt (by omega), List.getElem?_eq_getElem hk]
  simp [State.getV_def]

theorem bcdDigits_length (v : Byte) : (bcdDigits v).length = 3 := rfl

end Sys2Proof.Machine
end

