-- ==== Sys2Proof/Laws/Cycle.lean ====
section
/-! SUPPORT. What a tick can do, said once: a stopped block does nothing; a running block ends the cycle of the
instruction fetched, or of the out-of-bounds fetch (spec 40_cycle_and_system.md R120, R122, R127). -/

namespace Sys2Proof.Machine

theorem fetch_in_range (s : State) (h : s.pc.toNat ≤ 4094) :
    s.fetch = some (decode (wordOfBytes (Memory.read s.mem s.pc.toNat) (Memory.read s.mem (s.pc.toNat + 1)))) := by
  simp [State.fetch, State.fetchBytes, memRead_in_range s.mem s.pc.toNat 2 (by omega), List.range_succ, decodeBytes]

theorem fetch_out_of_range (s : State) (h : 4094 < s.pc.toNat) : s.fetch = none := by
  simp [State.fetch, State.fetchBytes, memRead_out_of_range s.mem s.pc.toNat 2 (by omega) (by omega)]

@[simp] theorem finishCycle_next (s : State) : finishCycle (.next s) = .next s.endCycle := rfl

theorem tick_stopped (b : Byte) (s : State) (h : s.run = .stopped) : tick b s = .next s := by
  simp [tick, h]

theorem tick_running (b : Byte) (s : State) (h : s.run = .running) : tick b s = cycle b s := by
  simp [tick, h]

theorem cycle_fetched (b : Byte) (s : State) (i : Instr) (h : s.fetch = some i) :
    cycle b s = finishCycle (exec i (s.dispatchState b)) := by
  simp [cycle, h]

theorem cycle_unfetched (b : Byte) (s : State) (h : s.fetch = none) :
    cycle b s = .next (raised .outOfBounds (s.dispatchState b)).endCycle := by
  simp [cycle, h, raiseError_eq]

theorem step_eq_tick (s : State) : step s = tick (Config.rnd s.cycles) s := rfl

/-- In the state an instruction is dispatched in, `a` is the address it was fetched at (R25). -/
@[simp] theorem dispatchState_fetchAddr (s : State) (b : Byte) : (s.dispatchState b).fetchAddr = s.pc := by
  simp [State.dispatchState, State.fetchAddr]

/-! ### The other memory operations keep the canonical form -/

theorem storeWord_wf (m : Memory) (a : Nat) (w : Word) (ha : a + 2 ≤ 4096) (h : Memory.wf m = true) :
    Memory.wf (storeWord m a w) = true := Memory.wf_writeAll _ _ _ ha h

theorem loadProgram_wf (s : State) (bytes : List Byte) (h : Memory.wf s.mem = true) :
    Memory.wf (s.loadProgram bytes).mem = true := by
  refine Memory.wf_writeAll _ _ _ ?_ h
  have : (bytes.take (loadCount bytes)).length ≤ 3584 := by
    rw [List.length_take]
    exact Nat.le_trans (Nat.min_le_left _ _) (Nat.min_le_right _ _)
  show 0x200 + _ ≤ 4096
  omega

end Sys2Proof.Machine
end

