-- ==== Sys2Proof/Laws/Exec.lean ====
section
/-! SUPPORT. What each meaning with more than one case answers, one equation per case, so that no later proof unfolds
it: the stack instructions (spec 41_control_flow.md), the memory instructions (44_index_and_memory.md, 45_display.md),
the key instructions (47_keypad.md). The other meanings answer by rfl. -/

namespace Sys2Proof.Machine

/-! ### Stack -/

theorem exec_ret_empty (s : State) (h : s.sp.val = 0) : exec .ret s = .next (raised .stackUnderflow s) := by
  simp [exec, execRet, pop_empty s h, raiseError_eq]

theorem exec_ret_pop (s : State) (h : s.sp.val ≠ 0) :
    exec .ret s = .next ((s.setStack s.stack ⟨s.sp.val - 1, by have := s.sp.isLt; omega⟩).setPc
      (s.stack[s.sp.val - 1]'(by have := s.sp.isLt; omega))) := by
  simp [exec, execRet, pop_nonempty s h]

theorem exec_call_full (nnn : Addr12) (s : State) (h : s.sp.val = 16) :
    exec (.call nnn) s = .next (raised .stackOverflow s) := by
  simp [exec, execCall, push_full s _ h, raiseError_eq]

theorem exec_call_room (nnn : Addr12) (s : State) (h : s.sp.val < 16) :
    exec (.call nnn) s = .next ((s.setStack (s.stack.set s.sp.val s.pc h) ⟨s.sp.val + 1, by omega⟩).setPc
      (zextAddr nnn)) := by
  simp [exec, execCall, push_room s _ h]

/-! ### Memory -/

theorem exec_ldB_in (x : Reg) (s : State) (h : s.i.toNat + 3 ≤ 4096) :
    exec (.ldB x) s = .next (s.setMem (Memory.writeAll s.mem s.i.toNat (bcdDigits (s.getV x)))) := by
  simp [exec, execLdB, State.dataAddr, memWrite_in_range s.mem s.i.toNat (bcdDigits (s.getV x)) (.inr h)]

theorem exec_ldB_out (x : Reg) (s : State) (h : 4096 < s.i.toNat + 3) :
    exec (.ldB x) s = .next (raised .outOfBounds s) := by
  have := memWrite_out_of_range s.mem s.i.toNat (bcdDigits (s.getV x)) (by simp [bcdDigits]) h
  simp [exec, execLdB, State.dataAddr, this, raiseError_eq]

theorem exec_stRegs_in (x : Reg) (s : State) (h : s.i.toNat + x.val + 1 ≤ 4096) :
    exec (.stRegs x) s = .next (s.setMem (Memory.writeAll s.mem s.i.toNat (s.regsTo x))) := by
  have := memWrite_in_range s.mem s.i.toNat (s.regsTo x) (.inr (by rw [regsTo_length]; omega))
  simp [exec, execStRegs, State.dataAddr, this]

theorem exec_stRegs_out (x : Reg) (s : State) (h : 4096 < s.i.toNat + x.val + 1) :
    exec (.stRegs x) s = .next (raised .outOfBounds s) := by
  have hl := regsTo_length s x
  have := memWrite_out_of_range s.mem s.i.toNat (s.regsTo x)
    (by intro hn; rw [hn] at hl; simp at hl) (by rw [hl]; omega)
  simp [exec, execStRegs, State.dataAddr, this, raiseError_eq]

theorem exec_ldRegs_in (x : Reg) (s : State) (h : s.i.toNat + x.val + 1 ≤ 4096) :
    exec (.ldRegs x) s =
      .next (s.loadV ((List.range (x.val + 1)).map fun k => Memory.read s.mem (s.i.toNat + k))) := by
  simp [exec, execLdRegs, State.dataAddr, memRead_in_range s.mem s.i.toNat (x.val + 1) (.inr (by omega))]

theorem exec_ldRegs_out (x : Reg) (s : State) (h : 4096 < s.i.toNat + x.val + 1) :
    exec (.ldRegs x) s = .next (raised .outOfBounds s) := by
  have := memRead_out_of_range s.mem s.i.toNat (x.val + 1) (by omega) (by omega)
  simp [exec, execLdRegs, State.dataAddr, this, raiseError_eq]

/-- The sprite rows a `DRW` in range reads. -/
def spriteRows (s : State) (n : Nat) : List Byte := (List.range n).map fun k => Memory.read s.mem (s.i.toNat + k)

theorem exec_drw_in (x y : Reg) (n : Nibble) (s : State) (h : n.val = 0 ∨ s.i.toNat + n.val ≤ 4096) :
    exec (.drw x y n) s =
      .next ((s.drawSprite (spriteRows s n.val) (s.getV x).toNat (s.getV y).toNat).2.setV vf
        (flagByte (s.drawSprite (spriteRows s n.val) (s.getV x).toNat (s.getV y).toNat).1)) := by
  simp [exec, execDrw, State.dataAddr, memRead_in_range s.mem s.i.toNat n.val h, spriteRows]

theorem exec_drw_out (x y : Reg) (n : Nibble) (s : State) (h : n.val ≠ 0) (h' : 4096 < s.i.toNat + n.val) :
    exec (.drw x y n) s = .next (raised .outOfBounds s) := by
  have := memRead_out_of_range s.mem s.i.toNat n.val h h'
  simp [exec, execDrw, State.dataAddr, this, raiseError_eq]

/-! ### Keys -/

theorem exec_ldK_key (x : Reg) (s : State) (k : Keycode) (q : List KeySymbol)
    (h : readKeyFrom keymap s.keyq = (some k, q)) :
    exec (.ldK x) s = .next ((s.setKeyq q).setV x (zextKey k)) := by
  simp [exec, execLdK, readKey_eq, h]

theorem exec_ldK_none (x : Reg) (s : State) (q : List KeySymbol) (h : readKeyFrom keymap s.keyq = (none, q)) :
    exec (.ldK x) s = .next ((s.setKeyq q).setPc (s.pc - 2)) := by
  simp [exec, execLdK, readKey_eq, h]

theorem exec_skp_key (x : Reg) (s : State) (k : Keycode) (q : List KeySymbol)
    (h : readKeyFrom keymap s.keyq = (some k, q)) :
    exec (.skp x) s = .next ((s.setKeyq q).skipIf (zextKey k == s.getV x)) := by
  simp [exec, execSkp, readKey_eq, h]

theorem exec_skp_none (x : Reg) (s : State) (q : List KeySymbol) (h : readKeyFrom keymap s.keyq = (none, q)) :
    exec (.skp x) s = .next (s.setKeyq q) := by
  simp [exec, execSkp, readKey_eq, h]

theorem exec_sknp_key (x : Reg) (s : State) (k : Keycode) (q : List KeySymbol)
    (h : readKeyFrom keymap s.keyq = (some k, q)) :
    exec (.sknp x) s = .next ((s.setKeyq q).skipIf (zextKey k != s.getV x)) := by
  simp [exec, execSknp, readKey_eq, h]

theorem exec_sknp_none (x : Reg) (s : State) (q : List KeySymbol) (h : readKeyFrom keymap s.keyq = (none, q)) :
    exec (.sknp x) s = .next ((s.setKeyq q).skipIf true) := by
  simp [exec, execSknp, readKey_eq, h]

end Sys2Proof.Machine
end

