-- ==== Sys2Proof/Laws/PerInstr.lean ====
section
/-! SUPPORT. Per-instruction family `EncodingRow`: the word `encode` gives an instruction lies in its kind's row of the
map of spec 30_encoding.md R99, that is `(word & mask) = match`. -/

namespace Sys2Proof.Laws.EncodingRow

/-- The encoding of an instruction is a word of its kind's row. -/
def Statement (i : Instr) : Prop := ∃ r ∈ opcodeMap, r.kind = i.kind ∧ encode i &&& r.mask = r.bits

theorem cls : Statement .cls :=
  ⟨⟨.cls, 0x00E0#16, 0xF0FF#16⟩, by decide, rfl, by decide⟩

theorem ret : Statement .ret :=
  ⟨⟨.ret, 0x00EE#16, 0xF0FF#16⟩, by decide, rfl, by decide⟩

theorem sys (nnn : Addr12) : Statement (.sys nnn) :=
  ⟨⟨.sys, 0x0000#16, 0xF000#16⟩, by decide, rfl, (packNNN_and_selector _ _).trans (by decide)⟩

theorem jp (nnn : Addr12) : Statement (.jp nnn) :=
  ⟨⟨.jp, 0x1000#16, 0xF000#16⟩, by decide, rfl, (packNNN_and_selector _ _).trans (by decide)⟩

theorem call (nnn : Addr12) : Statement (.call nnn) :=
  ⟨⟨.call, 0x2000#16, 0xF000#16⟩, by decide, rfl, (packNNN_and_selector _ _).trans (by decide)⟩

theorem seByte (x : Reg) (kk : Byte) : Statement (.seByte x kk) :=
  ⟨⟨.seByte, 0x3000#16, 0xF000#16⟩, by decide, rfl, (packXKK_and_selector _ _ _).trans (by decide)⟩

theorem sneByte (x : Reg) (kk : Byte) : Statement (.sneByte x kk) :=
  ⟨⟨.sneByte, 0x4000#16, 0xF000#16⟩, by decide, rfl, (packXKK_and_selector _ _ _).trans (by decide)⟩

theorem seReg (x y : Reg) : Statement (.seReg x y) :=
  ⟨⟨.seReg, 0x5000#16, 0xF000#16⟩, by decide, rfl, (packXYN_and_selector _ _ _ _).trans (by decide)⟩

theorem ldByte (x : Reg) (kk : Byte) : Statement (.ldByte x kk) :=
  ⟨⟨.ldByte, 0x6000#16, 0xF000#16⟩, by decide, rfl, (packXKK_and_selector _ _ _).trans (by decide)⟩

theorem addByte (x : Reg) (kk : Byte) : Statement (.addByte x kk) :=
  ⟨⟨.addByte, 0x7000#16, 0xF000#16⟩, by decide, rfl, (packXKK_and_selector _ _ _).trans (by decide)⟩

theorem ldReg (x y : Reg) : Statement (.ldReg x y) :=
  ⟨⟨.ldReg, 0x8000#16, 0xF00F#16⟩, by decide, rfl, (packXYN_and_lowNibble _ _ _ _).trans (by decide)⟩

theorem orReg (x y : Reg) : Statement (.orReg x y) :=
  ⟨⟨.orReg, 0x8001#16, 0xF00F#16⟩, by decide, rfl, (packXYN_and_lowNibble _ _ _ _).trans (by decide)⟩

theorem andReg (x y : Reg) : Statement (.andReg x y) :=
  ⟨⟨.andReg, 0x8002#16, 0xF00F#16⟩, by decide, rfl, (packXYN_and_lowNibble _ _ _ _).trans (by decide)⟩

theorem xorReg (x y : Reg) : Statement (.xorReg x y) :=
  ⟨⟨.xorReg, 0x8003#16, 0xF00F#16⟩, by decide, rfl, (packXYN_and_lowNibble _ _ _ _).trans (by decide)⟩

theorem addReg (x y : Reg) : Statement (.addReg x y) :=
  ⟨⟨.addReg, 0x8004#16, 0xF00F#16⟩, by decide, rfl, (packXYN_and_lowNibble _ _ _ _).trans (by decide)⟩

theorem subReg (x y : Reg) : Statement (.subReg x y) :=
  ⟨⟨.subReg, 0x8005#16, 0xF00F#16⟩, by decide, rfl, (packXYN_and_lowNibble _ _ _ _).trans (by decide)⟩

theorem shr (x : Reg) : Statement (.shr x) :=
  ⟨⟨.shr, 0x8006#16, 0xF00F#16⟩, by decide, rfl, (packXYN_and_lowNibble _ _ _ _).trans (by decide)⟩

theorem subnReg (x y : Reg) : Statement (.subnReg x y) :=
  ⟨⟨.subnReg, 0x8007#16, 0xF00F#16⟩, by decide, rfl, (packXYN_and_lowNibble _ _ _ _).trans (by decide)⟩

theorem shl (x : Reg) : Statement (.shl x) :=
  ⟨⟨.shl, 0x800E#16, 0xF00F#16⟩, by decide, rfl, (packXYN_and_lowNibble _ _ _ _).trans (by decide)⟩

theorem sneReg (x y : Reg) : Statement (.sneReg x y) :=
  ⟨⟨.sneReg, 0x9000#16, 0xF000#16⟩, by decide, rfl, (packXYN_and_selector _ _ _ _).trans (by decide)⟩

theorem ldI (nnn : Addr12) : Statement (.ldI nnn) :=
  ⟨⟨.ldI, 0xA000#16, 0xF000#16⟩, by decide, rfl, (packNNN_and_selector _ _).trans (by decide)⟩

theorem jpV0 (nnn : Addr12) : Statement (.jpV0 nnn) :=
  ⟨⟨.jpV0, 0xB000#16, 0xF000#16⟩, by decide, rfl, (packNNN_and_selector _ _).trans (by decide)⟩

theorem rnd (x : Reg) (kk : Byte) : Statement (.rnd x kk) :=
  ⟨⟨.rnd, 0xC000#16, 0xF000#16⟩, by decide, rfl, (packXKK_and_selector _ _ _).trans (by decide)⟩

theorem drw (x y : Reg) (n : Nibble) : Statement (.drw x y n) :=
  ⟨⟨.drw, 0xD000#16, 0xF000#16⟩, by decide, rfl, (packXYN_and_selector _ _ _ _).trans (by decide)⟩

theorem skp (x : Reg) : Statement (.skp x) :=
  ⟨⟨.skp, 0xE09E#16, 0xF0FF#16⟩, by decide, rfl, (packXKK_and_lowByte _ _ _).trans (by decide)⟩

theorem sknp (x : Reg) : Statement (.sknp x) :=
  ⟨⟨.sknp, 0xE0A1#16, 0xF0FF#16⟩, by decide, rfl, (packXKK_and_lowByte _ _ _).trans (by decide)⟩

theorem ldVxDt (x : Reg) : Statement (.ldVxDt x) :=
  ⟨⟨.ldVxDt, 0xF007#16, 0xF0FF#16⟩, by decide, rfl, (packXKK_and_lowByte _ _ _).trans (by decide)⟩

theorem ldK (x : Reg) : Statement (.ldK x) :=
  ⟨⟨.ldK, 0xF00A#16, 0xF0FF#16⟩, by decide, rfl, (packXKK_and_lowByte _ _ _).trans (by decide)⟩

theorem ldDt (x : Reg) : Statement (.ldDt x) :=
  ⟨⟨.ldDt, 0xF015#16, 0xF0FF#16⟩, by decide, rfl, (packXKK_and_lowByte _ _ _).trans (by decide)⟩

theorem ldSt (x : Reg) : Statement (.ldSt x) :=
  ⟨⟨.ldSt, 0xF018#16, 0xF0FF#16⟩, by decide, rfl, (packXKK_and_lowByte _ _ _).trans (by decide)⟩

theorem addI (x : Reg) : Statement (.addI x) :=
  ⟨⟨.addI, 0xF01E#16, 0xF0FF#16⟩, by decide, rfl, (packXKK_and_lowByte _ _ _).trans (by decide)⟩

theorem ldF (x : Reg) : Statement (.ldF x) :=
  ⟨⟨.ldF, 0xF029#16, 0xF0FF#16⟩, by decide, rfl, (packXKK_and_lowByte _ _ _).trans (by decide)⟩

theorem ldB (x : Reg) : Statement (.ldB x) :=
  ⟨⟨.ldB, 0xF033#16, 0xF0FF#16⟩, by decide, rfl, (packXKK_and_lowByte _ _ _).trans (by decide)⟩

theorem stRegs (x : Reg) : Statement (.stRegs x) :=
  ⟨⟨.stRegs, 0xF055#16, 0xF0FF#16⟩, by decide, rfl, (packXKK_and_lowByte _ _ _).trans (by decide)⟩

theorem ldRegs (x : Reg) : Statement (.ldRegs x) :=
  ⟨⟨.ldRegs, 0xF065#16, 0xF0FF#16⟩, by decide, rfl, (packXKK_and_lowByte _ _ _).trans (by decide)⟩

theorem unknown : Statement .unknown :=
  ⟨⟨.unknown, 0x0000#16, 0x0000#16⟩, by decide, rfl, by decide⟩

end Sys2Proof.Laws.EncodingRow
end

