-- ==== Sys2Proof/Machine/Disasm.lean ====
section
/-! DEFINITION. The disassembly function (spec 30_encoding.md R103), a diagnostic aid with no effect on state. What the
spec does not give, the address's radix, width and separator and the mnemonic strings, is free (log entry 9). -/

namespace Sys2Proof.Machine

/-- Space-separated decimal operands, each preceded by its space (R103). -/
def operandText (ops : List Nat) : String := String.join (ops.map fun n => " " ++ toString n)

/-- One output line: an address-prefixed mnemonic plus the operands of R101 in decimal (R103). -/
def disassemble (a : Word) (w : Word) : String :=
  Config.disasmAddress a.toNat ++ Config.disasmMnemonic (classify w).assemblerForm ++
    operandText (operandsFor (classify w) w)

end Sys2Proof.Machine
end

