-- ==== Sys2Proof/Tests/Slice0.lean ====
section
/-! SUPPORT. The model's own tests. Expected values are those of spec/95_test_vectors.md, cited by vector id, unless a
comment says otherwise. First the checks of WellFormed and of the decoder, then one cycle per test, then for every
obligation with hypotheses a state that meets them (`witness_…`). -/

namespace Sys2Proof.Tests

open Sys2Proof Sys2Proof.Machine Sys2Proof.Spec

/-! ### WellFormed -/

/-- R95: a word whose low byte is 0xE0 or 0xEE is not `SYS`. -/
theorem test_wf_refuses_sys_with_cls_or_ret_word :
    (Instr.sys 0x0E0).wf = false ∧ (Instr.sys 0xAE0).wf = false ∧ (Instr.sys 0x0EE).wf = false ∧
      (Instr.sys 0xFEE).wf = false ∧ (Instr.sys 0x0E1).wf = true ∧ (Instr.sys 0).wf = true := by decide

/-! ### Decoding: words written out from the patterns of R99 -/

/-- E1 to E7. -/
theorem test_decode_selector0 :
    decode 0x00E0#16 = .cls ∧ decode 0x0AE0#16 = .cls ∧ decode 0x00EE#16 = .ret ∧ decode 0x0FEE#16 = .ret ∧
      decode 0x0000#16 = .sys 0 ∧ decode 0x00E1#16 = .sys 0x0E1 ∧ decode 0x0EE0#16 = .cls := by decide

/-- E8 to E11, E18, E19 and the examples of R142 to R172. -/
theorem test_decode_selector_alone :
    decode 0x1200#16 = .jp 0x200 ∧ decode 0x220E#16 = .call 0x20E ∧ decode 0x332A#16 = .seByte 3 0x2A ∧
      decode 0x432A#16 = .sneByte 3 0x2A ∧ decode 0x5AB0#16 = .seReg 0xA 0xB ∧ decode 0x5AB7#16 = .seReg 0xA 0xB ∧
      decode 0x6A2F#16 = .ldByte 0xA 0x2F ∧ decode 0x7102#16 = .addByte 1 2 ∧ decode 0x9AB0#16 = .sneReg 0xA 0xB ∧
      decode 0x9ABF#16 = .sneReg 0xA 0xB ∧ decode 0xA300#16 = .ldI 0x300 ∧ decode 0xB300#16 = .jpV0 0x300 ∧
      decode 0xC30F#16 = .rnd 3 0x0F ∧ decode 0xD123#16 = .drw 1 2 3 := by decide

/-- E12. -/
theorem test_decode_selector8 :
    decode 0x8AB0#16 = .ldReg 0xA 0xB ∧ decode 0x8AB1#16 = .orReg 0xA 0xB ∧ decode 0x8AB2#16 = .andReg 0xA 0xB ∧
      decode 0x8AB3#16 = .xorReg 0xA 0xB ∧ decode 0x8AB4#16 = .addReg 0xA 0xB ∧ decode 0x8AB5#16 = .subReg 0xA 0xB ∧
      decode 0x8AB6#16 = .shr 0xA ∧ decode 0x8AB7#16 = .subnReg 0xA 0xB ∧ decode 0x8ABE#16 = .shl 0xA := by decide

/-- E14, E16. -/
theorem test_decode_selectorE_selectorF :
    decode 0xE59E#16 = .skp 5 ∧ decode 0xE5A1#16 = .sknp 5 ∧ decode 0xF507#16 = .ldVxDt 5 ∧ decode 0xF50A#16 = .ldK 5 ∧
      decode 0xF515#16 = .ldDt 5 ∧ decode 0xF518#16 = .ldSt 5 ∧ decode 0xF51E#16 = .addI 5 ∧ decode 0xF529#16 = .ldF 5 ∧
      decode 0xF533#16 = .ldB 5 ∧ decode 0xF555#16 = .stRegs 5 ∧ decode 0xF565#16 = .ldRegs 5 := by decide

/-- E13, E15, E17. -/
theorem test_decode_unknown :
    [0x8AB8#16, 0x8AB9#16, 0x8ABA#16, 0x8ABB#16, 0x8ABC#16, 0x8ABD#16, 0x8ABF#16, 0xE500#16, 0xE59F#16, 0xE5A0#16, 0xE5FF#16,
      0xF500#16, 0xF575#16, 0xF585#16, 0xF5FF#16, 0xFFFF#16].all (fun w => decode w == .unknown) = true := by decide

/-- R61: the byte at the lower address is the more significant; two bytes make a word and one makes none. -/
theorem test_decode_bytes_big_endian :
    decodeBytes [0x12, 0x00, 0xE0] = .ok (.jp 0x200, [0xE0]) ∧ decodeBytes [0x12] = .error .truncated ∧
      decodeTableWord 16 0x8AB4 = some (.addReg 0xA 0xB) := by decide

/-- The words of R91 for one instruction of each format. -/
theorem test_encode_formats :
    encode (.call 0x345) = 0x2345#16 ∧ encode (.addByte 0xB 0xFF) = 0x7BFF#16 ∧ encode (.seReg 1 2) = 0x5120#16 ∧
      encode (.subnReg 1 2) = 0x8127#16 ∧ encode (.drw 1 2 3) = 0xD123#16 ∧ encode (.ldB 5) = 0xF533#16 := by decide

/-! ### One cycle -/

/-- The reset state with a word where the next cycle fetches. -/
def code (w : Nat) : State := State.reset.withFetchWord 16 w

/-- The same at an address. -/
def codeAt (a : Word) (w : Nat) : State := (State.reset.setPc a).withFetchWord 16 w

/-- The same with bytes in memory from an address. -/
def codeMem (w a : Nat) (bytes : List Byte) : State :=
  (code w).setMem (Memory.writeAll (code w).mem a bytes)

/-- What holds after one tick with the draw `rnd`. -/
def after (rnd : Byte) (s : State) (p : State → Bool) : Bool :=
  match tick rnd s with
  | .next t => p t
  | .fault _ => false
  | .refused _ => false

/-- The rows of the frame with a lit pixel, each with the columns lit in it: the complete set of lit pixels. -/
def lit (s : State) : List (Nat × List Nat) :=
  (s.fb.toList.zipIdx.filter fun r => r.1 != 0).map fun r => (r.2, (List.range 64).filter r.1.getLsbD)

/-- Y1. -/
theorem test_sys : after 0 ((code 0x0123).setDt 5) (fun t => t.pc == 0x202 && t.dt == 4 && t.out.err == none) = true := by
  decide

/-- Y6. -/
theorem test_unknown : after 0 ((code 0xFFFF).setSt 2)
    (fun t => t.pc == 0x202 && t.st == 1 && t.buzzPort && t.errKindPort == 4 && t.errAddrPort == 0x200) = true := by
  decide

/-- Y9. -/
theorem test_fetch_out_of_bounds : after 0 ((State.reset.setPc 0xFFFF).setDt 1)
    (fun t => t.pc == 0x0001 && t.dt == 0 && t.errKindPort == 3 && t.errAddrPort == 0xFFFF && t.runningPort) = true := by
  decide

/-- Y10. -/
theorem test_last_fetch_address : after 0 (codeAt 0xFFE 0x6A11) (fun t => t.pc == 0x1000 && t.getV 0xA == 0x11) = true := by
  decide

/-- CF1. -/
theorem test_jp : after 0 (code 0x1ABC) (fun t => t.pc == 0x0ABC) = true := by decide

/-- CF5. -/
theorem test_call_sixteenth : after 0 ((codeAt 0x456 0x2345).setStack (Vector.replicate 16 0) 15)
    (fun t => t.pc == 0x345 && t.sp == 16 && t.stack[15] == 0x458) = true := by decide

/-- CF6. -/
theorem test_call_seventeenth : after 0 (((code 0x2345).setStack (Vector.replicate 16 7) 16).setDt 3)
    (fun t => t.pc == 0x202 && t.dt == 2 && t.run == .stopped && t.errKind == some .stackOverflow && t.errAddr == 0x200 &&
      t.sp == 16 && t.stack == Vector.replicate 16 7 && t.errKindPort == 1 && t.fatalPort) = true := by decide

/-- CF8. -/
theorem test_ret : after 0 ((code 0x0FEE).setStack (((Vector.replicate 16 0).set 0 0x0ABC).set 1 0x0246) 2)
    (fun t => t.pc == 0x246 && t.sp == 1) = true := by decide

/-- CF9. -/
theorem test_ret_empty : after 0 ((code 0x00EE).setSt 1)
    (fun t => t.pc == 0x202 && t.st == 0 && t.run == .stopped && t.errKind == some .stackUnderflow && t.errAddr == 0x200 &&
      !t.buzzPort) = true := by decide

/-- CF11. -/
theorem test_jpV0 : after 0 ((code 0xBFFF).setV 0 0xFF) (fun t => t.pc == 0x10FE && t.out.err == none) = true := by decide

/-- J1, J2. -/
theorem test_seByte : after 0 ((code 0x3A42).setV 0xA 0x42) (fun t => t.pc == 0x204) = true ∧
    after 0 ((code 0x3A42).setV 0xA 0x43) (fun t => t.pc == 0x202) = true := by decide

/-- J3, J4. -/
theorem test_sneByte : after 0 ((code 0x4A42).setV 0xA 0x42) (fun t => t.pc == 0x202) = true ∧
    after 0 ((code 0x4A42).setV 0xA 0x43) (fun t => t.pc == 0x204) = true := by decide

/-- J6, J8. -/
theorem test_seReg : after 0 (((code 0x5120).setV 1 7).setV 2 8) (fun t => t.pc == 0x202) = true ∧
    after 0 (((code 0x5127).setV 1 7).setV 2 7) (fun t => t.pc == 0x204) = true := by decide

/-- J9, J11. -/
theorem test_sneReg : after 0 (((code 0x9120).setV 1 7).setV 2 7) (fun t => t.pc == 0x202) = true ∧
    after 0 (((code 0x912F).setV 1 7).setV 2 8) (fun t => t.pc == 0x204) = true := by decide

/-- A1. -/
theorem test_ldByte : after 0 (code 0x6C7F) (fun t => t.getV 0xC == 0x7F) = true := by decide

/-- A3. -/
theorem test_addByte : after 0 ((code 0x7A01).setV 0xA 0xFF) (fun t => t.getV 0xA == 0 && t.getV vf == 0) = true := by
  decide

/-- A5. -/
theorem test_ldReg : after 0 ((code 0x8120).setV 2 0x99) (fun t => t.getV 1 == 0x99) = true := by decide

/-- A7. -/
theorem test_orReg : after 0 ((((code 0x8121).setV 1 0xF0).setV 2 0x0F).setV vf 1)
    (fun t => t.getV 1 == 0xFF && t.getV vf == 1) = true := by decide

/-- A8. -/
theorem test_andReg : after 0 ((((code 0x8122).setV 1 0xFC).setV 2 0x3F).setV vf 1)
    (fun t => t.getV 1 == 0x3C && t.getV vf == 1) = true := by decide

/-- A9. -/
theorem test_xorReg : after 0 ((((code 0x8123).setV 1 0xFF).setV 2 0x0F).setV vf 1)
    (fun t => t.getV 1 == 0xF0 && t.getV vf == 1) = true := by decide

/-- A13, A17. -/
theorem test_addReg : after 0 ((((code 0x8124).setV 1 0xFE).setV 2 0x01).setV vf 1)
      (fun t => t.getV 1 == 0xFF && t.getV vf == 0) = true ∧
    after 0 (((code 0x81F4).setV 1 0xF0).setV vf 0x20) (fun t => t.getV 1 == 0x10 && t.getV vf == 1) = true := by decide

/-- A15. -/
theorem test_addReg_vf : after 0 (((code 0x8F14).setV vf 0xFF).setV 1 2) (fun t => t.getV vf == 1) = true := by decide

/-- A18, A20. -/
theorem test_subReg : after 0 ((((code 0x8125).setV 1 0x05).setV 2 0x0A).setV vf 1)
      (fun t => t.getV 1 == 0xFB && t.getV vf == 0) = true ∧
    after 0 ((((code 0x8125).setV 1 7).setV 2 7).setV vf 1) (fun t => t.getV 1 == 0 && t.getV vf == 0) = true := by decide

/-- A22. -/
theorem test_subReg_vf : after 0 (((code 0x8F15).setV vf 9).setV 1 2) (fun t => t.getV vf == 7) = true := by decide

/-- A24, A27. -/
theorem test_subnReg : after 0 (((code 0x8127).setV 1 0x03).setV 2 0x0A)
      (fun t => t.getV 1 == 0x07 && t.getV vf == 1) = true ∧
    after 0 (((code 0x8F17).setV vf 2).setV 1 9) (fun t => t.getV vf == 7) = true := by decide

/-- A28, A30. -/
theorem test_shr : after 0 (((code 0x8126).setV 1 0x05).setV 2 0xFF)
      (fun t => t.getV 1 == 2 && t.getV vf == 1 && t.getV 2 == 0xFF) = true ∧
    after 0 ((code 0x8F06).setV vf 3) (fun t => t.getV vf == 1) = true := by decide

/-- A31, A34. -/
theorem test_shl : after 0 (((code 0x812E).setV 1 0x81).setV 2 0x01) (fun t => t.getV 1 == 2 && t.getV vf == 1) = true ∧
    after 0 ((code 0x8F0E).setV vf 0xC0) (fun t => t.getV vf == 0x80) = true := by decide

/-- A35, A36. -/
theorem test_rnd : after 0xA7 (code 0xC30F) (fun t => t.getV 3 == 0x07) = true ∧
    after 0xFF ((code 0xC300).setV 3 0x55) (fun t => t.getV 3 == 0) = true := by decide

/-- M1. -/
theorem test_ldI : after 0 (code 0xAFFF) (fun t => t.i == 0x0FFF) = true := by decide

/-- M2, M3. -/
theorem test_addI : after 0 ((((code 0xF11E).setI 0x0FFF).setV 1 1).setV vf 7)
      (fun t => t.i == 0x1000 && t.getV vf == 7) = true ∧
    after 0 (((code 0xF11E).setI 0xFFFF).setV 1 2) (fun t => t.i == 0x0001) = true := by decide

/-- M4, M5, M6: the address for the vectors' own `FONT_BASE = 0x050` and `FONT_GLYPH_BYTES = 5`. -/
theorem test_ldF_address : glyphAddr 0x050 5 0x00 = 0x0050 ∧ glyphAddr 0x050 5 0x0F = 0x009B ∧
    glyphAddr 0x050 5 0xFF = 0x054B := by decide

/-- R182 with this hardware's open font parameters. -/
theorem test_ldF : exec (.ldF 1) ((code 0xF129).setV 1 0x0F) =
    .next (((code 0xF129).setV 1 0x0F).setI (BitVec.ofNat 16 (fontBase + fontGlyphBytes * 15))) := rfl

/-- M8. -/
theorem test_ldB : after 0 (((codeMem 0xF133 0x300 [9, 9, 9]).setI 0x300).setV 1 7)
    (fun t => (List.range 3).map (fun k => Memory.read t.mem (0x300 + k)) == [0, 0, 7]) = true := by decide

/-- M10. -/
theorem test_ldB_out_of_bounds : after 0 (((code 0xF133).setI 0xFFE).setV 1 0x80)
    (fun t => t.mem == (code 0xF133).mem && t.errKindPort == 3 && t.errAddrPort == 0x200) = true := by decide

/-- M12. -/
theorem test_stRegs : after 0 (((((code 0xF255).setI 0x300).setV 0 1).setV 1 2).setV 2 3)
    (fun t => (List.range 4).map (fun k => Memory.read t.mem (0x300 + k)) == [1, 2, 3, 0] && t.i == 0x300) = true := by
  decide

/-- M14. -/
theorem test_stRegs_out_of_bounds : after 0 (((code 0xFF55).setI 0xFF1).setV 0 0x10)
    (fun t => t.mem == (code 0xFF55).mem && t.errKindPort == 3) = true := by decide

/-- M16. -/
theorem test_ldRegs : after 0 (((codeMem 0xF265 0x300 [0xA, 0xB, 0xC, 0xD]).setI 0x300).setV 3 0x77)
    (fun t => t.getV 0 == 0xA && t.getV 1 == 0xB && t.getV 2 == 0xC && t.getV 3 == 0x77 && t.i == 0x300) = true := by decide

/-- M17. -/
theorem test_ldRegs_out_of_bounds : after 0 ((((code 0xF165).setI 0xFFF).setV 0 5).setV 1 6)
    (fun t => t.getV 0 == 5 && t.getV 1 == 6 && t.errKindPort == 3) = true := by decide

/-- G2. -/
theorem test_cls : after 0 (code 0x00E0) (fun t => lit t == [] && t.presentPort && !t.dirty) = true := by decide

/-- P4, its first `DRW`. -/
theorem test_drw_wraps : after 0 ((((codeMem 0xD012 0x20C [0xC0, 0x81]).setI 0x20C).setV 0 0x3E).setV 1 0x1F)
    (fun t => lit t == [(0, [5, 62]), (31, [62, 63])] && t.getV vf == 0 && t.presentPort) = true := by decide

/-- G15. -/
theorem test_drw_out_of_bounds : after 0 (((code 0xD012).setI 0xFFF).setV vf 1)
    (fun t => lit t == [] && t.getV vf == 1 && !t.presentPort && t.errKindPort == 3) = true := by decide

/-- T1. -/
theorem test_ldVxDt : after 0 ((code 0xF307).setDt 10) (fun t => t.dt == 9 && t.getV 3 == 9) = true := by decide

/-- T3. -/
theorem test_ldDt : after 0 (((code 0xF315).setV 3 0x3C).setDt 5) (fun t => t.dt == 60) = true := by decide

/-- T4, T5. -/
theorem test_ldSt : after 0 ((code 0xF318).setV 3 2) (fun t => t.st == 2 && t.buzzPort) = true ∧
    after 0 ((code 0xF318).setSt 5) (fun t => t.st == 0 && !t.buzzPort) = true := by decide

/-- K1. -/
theorem test_ldK_waits : after 0 (((code 0xF30A).setV 3 9).setDt 4)
    (fun t => t.pc == 0x200 && t.dt == 3 && t.getV 3 == 9) = true := by decide

/-- K2, for any symbol of key A. -/
theorem test_ldK_takes (u : KeySymbol) (h : keymap u = some 0xA) :
    exec (.ldK 3) ((code 0xF30A).setKeyq [u]) = .next (((code 0xF30A).setKeyq []).setV 3 0x0A) :=
  exec_ldK_key 3 _ 0xA [] (readKeyFrom_mapped keymap [] [] u 0xA (by simp) h)

/-- K6, K8, for any symbols of keys 6 and 5. -/
theorem test_skp (u w : KeySymbol) (hu : keymap u = some 6) (hw : keymap w = some 5) :
    exec (.skp 3) (((code 0xE39E).setV 3 5).setKeyq [u, w]) = .next (((code 0xE39E).setV 3 5).setKeyq [w]) ∧
      exec (.skp 3) (((code 0xE39E).setV 3 0x15).setKeyq [w]) = .next (((code 0xE39E).setV 3 0x15).setKeyq []) :=
  ⟨exec_skp_key 3 _ 6 [w] (readKeyFrom_mapped keymap [] [w] u 6 (by simp) hu),
    exec_skp_key 3 _ 5 [] (readKeyFrom_mapped keymap [] [] w 5 (by simp) hw)⟩

/-- K5, K7. -/
theorem test_skp_match (w : KeySymbol) (hw : keymap w = some 5) :
    exec (.skp 3) (((code 0xE39E).setV 3 5).setKeyq [w]) =
        .next ((((code 0xE39E).setV 3 5).setKeyq []).setPc 0x202) ∧
      after 0 ((code 0xE39E).setV 3 5) (fun t => t.pc == 0x202) = true :=
  ⟨exec_skp_key 3 _ 5 [] (readKeyFrom_mapped keymap [] [] w 5 (by simp) hw), by decide⟩

/-- K10, K12. -/
theorem test_sknp (w : KeySymbol) (hw : keymap w = some 5) :
    exec (.sknp 3) (((code 0xE3A1).setV 3 5).setKeyq [w]) = .next (((code 0xE3A1).setV 3 5).setKeyq []) ∧
      after 0 ((code 0xE3A1).setV 3 5) (fun t => t.pc == 0x204) = true :=
  ⟨exec_sknp_key 3 _ 5 [] (readKeyFrom_mapped keymap [] [] w 5 (by simp) hw), by decide⟩

/-- The vectors' own test `SYMBOL`, numbers, and `KEYMAP`. -/
def testKeymap (u : Nat) : Option Keycode :=
  if 0x30 ≤ u ∧ u ≤ 0x39 then some (BitVec.ofNat 4 (u - 0x30))
  else if 0x61 ≤ u ∧ u ≤ 0x66 then some (BitVec.ofNat 4 (u - 0x61 + 0xA))
  else none

/-- K3, K4, K9. -/
theorem test_readKey_discards_unmapped :
    readKeyFrom testKeymap [0x7A, 0x7A, 0x35, 0x36] = (some 5, [0x36]) ∧
      readKeyFrom testKeymap [0x7A, 0x7B] = (none, []) ∧ readKeyFrom testKeymap [0x7A, 0x35] = (some 5, []) := by decide

/-- Q2, Q4, and Q3 with its first symbols cut to three. -/
theorem test_push_drops_oldest :
    pushSymbols 8 [0x30, 0x31, 0x32, 0x33, 0x34, 0x35, 0x36, 0x37] [0x38] =
        [0x31, 0x32, 0x33, 0x34, 0x35, 0x36, 0x37, 0x38] ∧
      pushSymbols 1 [] [0x31, 0x32] = [0x32] ∧ pushSymbols 3 [0x31] [0x61, 0x62, 0x63, 0x64] = [0x62, 0x63, 0x64] := by decide

/-- L1, L3. -/
theorem test_loadProgram :
    (List.range 4).map (fun k => Memory.read (State.reset.loadProgram [1, 2, 3]).mem (0x200 + k)) = [1, 2, 3, 0] ∧
      loadCount (List.replicate 4000 0) = 3584 := ⟨by decide, by rw [loadCount, List.length_replicate]; decide⟩

/-- Y11. -/
theorem test_stopped_tick : tick 0 (((State.reset.setDt 5).setSt 5).cancel) = .next (((State.reset.setDt 5).setSt 5).cancel) :=
  rfl

/-! ### Witnesses: for each obligation with hypotheses, states and operands that meet all of them -/

/-- A state with an empty queue, an empty stack and nothing latched meets the invariant when its memory is canonical. -/
theorem inv_of_quiet (s : State) (hq : s.keyq = []) (hd : s.dirty = false) (hm : Memory.wf s.mem = true) (hs : s.sp = 0)
    (he : s.errKind = none) (ha : s.errAddr = 0) : Inv s where
  keyq_le := by simp [hq]
  dirty_clear := hd
  mem_wf := hm
  stack_le := by simp [hs]
  latch_fatal := by simp [he]
  latch_stops := by simp [he]
  latch_addr := fun _ => ha

/-- A state a fatal error left meets the invariant. -/
def stoppedFatally : State :=
  { State.reset with run := .stopped, errKind := some .stackUnderflow, errAddr := 0x200 }

theorem inv_stoppedFatally : Inv stoppedFatally where
  keyq_le := by simp [stoppedFatally, State.reset]
  dirty_clear := rfl
  mem_wf := rfl
  stack_le := by simp [stoppedFatally, State.reset]
  latch_fatal := by simp [stoppedFatally, ErrKind.isFatal]
  latch_stops := fun _ => rfl
  latch_addr := by simp [stoppedFatally]

theorem inv_code_cls : Inv (code 0x00E0) := inv_of_quiet _ rfl rfl (by decide) rfl rfl rfl

/-- The reset state with a queue of one symbol of key 7. -/
theorem key7_state : ∃ u, NextKey (State.reset.setKeyq [u]) 7 [] := by
  obtain ⟨u, hu⟩ := keymap_onto 7
  exact ⟨u, [], u, rfl, by simp, hu⟩

theorem noKey_code (w : Nat) : NoKey (code w) := by
  intro u hu
  cases hu

theorem witness_DecodeOfEncodeGivesInstruction : (Instr.sys 0x0EF).wf = true ∧ Instr.unknown.wf = true := by decide

theorem witness_DecodesIffSignificantBitsAgree : (Instr.shr 0xF).wf = true ∧ Instr.shr 0xF ≠ .unknown := by decide

/-- At reset, and at the last address a word is fetched from. -/
theorem witness_StepRunsDecodedInstruction :
    (State.reset.run = .running ∧ State.reset.pc.toNat ≤ 4094) ∧
      ((State.reset.setPc 0xFFE).run = .running ∧ (State.reset.setPc 0xFFE).pc.toNat ≤ 4094) := by decide

/-- At the first and at the last address out of range. -/
theorem witness_OutOfRangeFetchIsAReportedNoOp :
    ((State.reset.setPc 0xFFF).run = .running ∧ 4094 < (State.reset.setPc 0xFFF).pc.toNat) ∧
      ((State.reset.setPc 0xFFFF).run = .running ∧ 4094 < (State.reset.setPc 0xFFFF).pc.toNat) := by decide

theorem witness_StoppedTickChangesNothing : State.reset.cancel.run = .stopped := rfl

theorem nextInstr_code (w : Nat) (i : Instr) (h : decode (wordAtPc (code w)) = i) : NextInstr (code w) i :=
  ⟨rfl, (by decide : (0x200#16).toNat ≤ 4094), h⟩

/-- One state for each clause: no timer loaded, each timer loaded, `DT` read. -/
theorem witness_TimersCountDownInEveryCycle :
    (NextInstr (code 0x0000) (.sys 0) ∧ ∃ t, step (code 0x0000) = .next t) ∧
      (NextInstr (code 0xF315) (.ldDt 3) ∧ ∃ t, step (code 0xF315) = .next t) ∧
      (NextInstr (code 0xF318) (.ldSt 3) ∧ ∃ t, step (code 0xF318) = .next t) ∧
      (NextInstr (code 0xF307) (.ldVxDt 3) ∧ ∃ t, step (code 0xF307) = .next t) :=
  ⟨⟨nextInstr_code _ _ (by decide), _, rfl⟩, ⟨nextInstr_code _ _ (by decide), _, rfl⟩,
    ⟨nextInstr_code _ _ (by decide), _, rfl⟩, ⟨nextInstr_code _ _ (by decide), _, rfl⟩⟩

/-- A run of one cycle that loads neither timer. -/
theorem witness_TimersCountDownInEveryCycle_run :
    ∃ t, TicksWhile (fun u => ∀ x, ¬ NextInstr u (.ldDt x)) 1 (code 0x0000) t := by
  refine ⟨_, rfl, fun x h => ?_, _, rfl, rfl⟩
  have h0 : decode (wordAtPc (code 0x0000)) = .sys 0 := by decide
  exact Instr.noConfusion (h0.symm.trans h.2.2)

/-- `LD DT,V3` then `LD V4,DT` in the cycle after it. -/
theorem witness_DelayTimerCountsCycles :
    ∃ s t v, NextInstr s (.ldDt 3) ∧ step s = .next t ∧ TicksWhile (fun w => ∀ z, ¬ NextInstr w (.ldDt z)) 0 t t ∧
      NextInstr t (.ldVxDt 4) ∧ step t = .next v :=
  ⟨codeMem 0xF315 0x202 [0xF4, 0x07], _, _, ⟨rfl, by decide, by decide⟩, rfl, rfl, ⟨rfl, by decide, by decide⟩, rfl⟩

/-- One cycle after `ST = 1` and after `ST = 2`: the tone has ended, and has not. -/
theorem witness_ToneLastsLoadedCycles :
    (∃ t, TicksWhile (fun u => ∀ x, ¬ NextInstr u (.ldSt x)) 1 ((code 0x0000).setSt 1) t ∧ t.run = .running) ∧
      ∃ t, TicksWhile (fun u => ∀ x, ¬ NextInstr u (.ldSt x)) 1 ((code 0x0000).setSt 2) t ∧ t.run = .running := by
  have h : ∀ (b : Byte) (x : Reg), ¬ NextInstr ((code 0x0000).setSt b) (.ldSt x) := by
    intro b x h
    have h0 : decode (wordAtPc (code 0x0000)) = .sys 0 := by decide
    exact Instr.noConfusion (h0.symm.trans h.2.2)
  exact ⟨⟨_, ⟨rfl, h 1, _, rfl, rfl⟩, rfl⟩, ⟨_, ⟨rfl, h 2, _, rfl, rfl⟩, rfl⟩⟩

/-- A cycle that completes a `CLS`, one that completes a `DRW`, one that abandons a `DRW`, one that does neither. -/
theorem witness_PresentExactlyOnCompletedDraws :
    (Inv (code 0x00E0) ∧ NextInstr (code 0x00E0) .cls ∧ ∃ t, step (code 0x00E0) = .next t) ∧
      (Inv (code 0xD010) ∧ NextInstr (code 0xD010) (.drw 0 1 0) ∧ ∃ t, step (code 0xD010) = .next t) ∧
      (Inv ((code 0xD012).setI 0xFFF) ∧ TransferOutOfRange ((code 0xD012).setI 0xFFF) (.drw 0 1 2) ∧
        ∃ t, step ((code 0xD012).setI 0xFFF) = .next t) ∧
      (Inv (code 0x1200) ∧ NextInstr (code 0x1200) (.jp 0x200) ∧ ∃ t, step (code 0x1200) = .next t) :=
  ⟨⟨inv_code_cls, nextInstr_code _ _ (by decide), _, rfl⟩,
    ⟨inv_of_quiet _ rfl rfl (by decide) rfl rfl rfl, nextInstr_code _ _ (by decide), _, rfl⟩,
    ⟨inv_of_quiet _ rfl rfl (by decide) rfl rfl rfl, by simp only [TransferOutOfRange]; decide, _, rfl⟩,
    ⟨inv_of_quiet _ rfl rfl (by decide) rfl rfl rfl, nextInstr_code _ _ (by decide), _, rfl⟩⟩

/-- A stopped and a running state. -/
theorem witness_StepKeepsInvariant :
    (Inv stoppedFatally ∧ ∃ t, step stoppedFatally = .next t) ∧ (Inv (code 0x00E0) ∧ ∃ t, step (code 0x00E0) = .next t) :=
  ⟨⟨inv_stoppedFatally, _, rfl⟩, ⟨inv_code_cls, _, rfl⟩⟩

/-- Each event in a state of the invariant, and a state reached by four of them. -/
theorem witness_HostEventsKeepInvariant :
    (∃ u, ∀ e ∈ [HostEvent.reset, .loadProgram [1, 2], .tick 0, .cancel, .keyPush [u]], ∃ t, hostStep e (code 0x00E0) = .next t) ∧
      ∃ t, Reachable t ∧ t.run = .stopped := by
  obtain ⟨u, -⟩ := keymap_onto 5
  have hr : Reachable _ := ⟨[.loadProgram [0x00, 0xE0], .tick 0, .keyPush [u], .cancel], rfl⟩
  refine ⟨⟨u, fun e he => ?_⟩, _, hr, rfl⟩
  fin_cases he <;> exact ⟨_, rfl⟩

/-- A stopped block, `Reset` out of it, and the events that leave it stopped. -/
theorem witness_OnlyResetLeavesStopped :
    stoppedFatally.run = .stopped ∧ hostStep .reset stoppedFatally = .next State.reset ∧ State.reset.run = .running ∧
      ∃ u, ∀ e ∈ [HostEvent.tick 0, .cancel, .keyPush [u]], e ≠ .reset ∧ ∃ t, hostStep e stoppedFatally = .next t := by
  obtain ⟨u, -⟩ := keymap_onto 5
  refine ⟨rfl, rfl, rfl, u, fun e he => ?_⟩
  fin_cases he <;> exact ⟨fun h => HostEvent.noConfusion h, _, rfl⟩

theorem witness_CancelStopsWithoutError : Inv (code 0x00E0) ∧ (code 0x00E0).run = .running := ⟨inv_code_cls, rfl⟩

/-- Running before and after the first cycle, and an image of exactly what fits. -/
theorem witness_LoadProgramCopiesWhatFits :
    (State.reset.run = .running ∧ State.reset.cycles = 0) ∧
      (∃ t, step (code 0x0000) = .next t ∧ t.run = .running ∧ 0 < t.cycles) ∧
      3583 < loadCount (List.replicate 3584 7) :=
  ⟨⟨rfl, rfl⟩, ⟨_, rfl, rfl, by decide⟩, by rw [loadCount, List.length_replicate]; decide⟩

/-- The last range in bounds and the first out of them, read and written. -/
theorem witness_MemoryPrimitivesCheckThenMove :
    (memRead [] 4093 3).isSome = true ∧ memRead [] 4094 3 = none ∧ (memWrite [] 4093 [1, 2, 3]).isSome = true ∧
      memWrite [] 4094 [1, 2, 3] = none ∧ memRead [] 5000 0 = some [] ∧ Memory.wf [] = true := by decide

theorem witness_EqualMemoriesAreEqualData :
    Memory.wf (Memory.write (Memory.write [] 0x301 5) 0x300 4) = true ∧
      Memory.wf (Memory.write (Memory.write [] 0x300 4) 0x301 5) = true ∧
      ∀ a, Memory.read (Memory.write (Memory.write [] 0x301 5) 0x300 4) a =
        Memory.read (Memory.write (Memory.write [] 0x300 4) 0x301 5) a := by
  refine ⟨by decide, by decide, fun a => ?_⟩
  simp only [Memory.read_write]
  split <;> split <;> simp_all

theorem witness_StoresAreFetchedAtOnce :
    ((code 0).setI 0xFFE).i.toNat + (1 : Reg).val + 1 ≤ 4096 ∧
      ∃ t, exec (.stRegs 1) (((code 0).setI 0xFFE).setPc 0xFFE) = .next t ∧ t.pc.toNat = 0xFFE + (0 : Reg).val :=
  ⟨by decide, _, rfl, rfl⟩

/-- The least and the greatest word of `SYS`, and a cycle that executes it. -/
theorem witness_SysIsANoOp :
    ((0x0000 : Word).toNat / 4096 = 0 ∧ (0x0000 : Word).toNat % 256 ≠ 0xE0 ∧ (0x0000 : Word).toNat % 256 ≠ 0xEE) ∧
      ((0x0FFF : Word).toNat / 4096 = 0 ∧ (0x0FFF : Word).toNat % 256 ≠ 0xE0 ∧ (0x0FFF : Word).toNat % 256 ≠ 0xEE) ∧
      NextInstr (code 0x0123) (.sys 0x123) ∧ ∃ t, step (code 0x0123) = .next t :=
  ⟨by decide, by decide, nextInstr_code _ _ (by decide), _, rfl⟩

theorem witness_JumpGoesToAddress : (0x1000 : Word).toNat / 4096 = 1 ∧ (0x1FFF : Word).toNat / 4096 = 1 := by decide

/-- An empty stack and a stack with one entry of room. -/
theorem witness_CallPushesReturnAddress :
    (code 0x2345).sp.val = (0 : Fin 16).val ∧ ((code 0x2345).setStack (Vector.replicate 16 7) 15).sp.val = (15 : Fin 16).val := by
  decide

theorem witness_ReturnPopsIntoPc :
    ((code 0x00EE).setStack (Vector.replicate 16 7) 1).sp.val = (0 : Fin 16).val + 1 ∧
      ((code 0x00EE).setStack (Vector.replicate 16 7) 16).sp.val = (15 : Fin 16).val + 1 := by decide

theorem witness_CallThenReturnRestoresPc :
    ∃ s t u : State, s.sp.val < 16 ∧ exec (.call 0x345) s = .next t ∧ u.sp = t.sp ∧ u.stack = t.stack :=
  ⟨code 0x2345, _, _, by decide, rfl, rfl, rfl⟩

theorem witness_SixteenCallsThenOverflow :
    (List.replicate 16 (0x200 : Addr12)).length = 16 ∧ State.reset.sp = 0 ∧ State.reset.run = .running := ⟨rfl, rfl, rfl⟩

/-- A `CALL` with a full stack and a `RET` with an empty one. -/
theorem witness_FatalErrorsStopAndLatch :
    (NextInstr ((code 0x2345).setStack (Vector.replicate 16 7) 16) (.call 0x345) ∧
        ((code 0x2345).setStack (Vector.replicate 16 7) 16).sp.val = 16) ∧
      (NextInstr (code 0x00EE) .ret ∧ (code 0x00EE).sp.val = 0) :=
  ⟨⟨⟨rfl, by decide, by decide⟩, rfl⟩, ⟨nextInstr_code _ _ (by decide), rfl⟩⟩

theorem witness_DrawMattersToRndAlone :
    (∀ x kk, Instr.subReg 1 2 ≠ .rnd x kk) ∧ ∃ t, exec (.subReg 1 2) State.reset = .next t :=
  ⟨fun _ _ h => Instr.noConfusion h, _, rfl⟩

/-- For `BcdStoresThreeDigits`, `BlockStoreCopiesRegisters` and `BlockLoadCopiesMemory`: the last address in range. -/
theorem witness_BlockTransfersInRange :
    (State.reset.setI 0xFFD).i.toNat + 3 ≤ 4096 ∧ (State.reset.setI 0xFF0).i.toNat + (15 : Reg).val + 1 ≤ 4096 ∧
      (State.reset.setI 0xFFF).i.toNat + (0 : Reg).val + 1 ≤ 4096 := by decide

/-- The first address out of range of each kind (M10, M14, M18, G15). -/
theorem witness_OutOfRangeTransfersAreAbandoned :
    TransferOutOfRange (State.reset.setI 0xFFF) (.drw 0 1 2) ∧ TransferOutOfRange (State.reset.setI 0xFFE) (.ldB 1) ∧
      TransferOutOfRange (State.reset.setI 0xFF1) (.stRegs 15) ∧ TransferOutOfRange (State.reset.setI 0x1000) (.ldRegs 0) := by
  simp only [TransferOutOfRange]
  decide

theorem witness_ClearTurnsEveryPixelOff : NextInstr (code 0x00E0) .cls ∧ ∃ t, step (code 0x00E0) = .next t :=
  ⟨nextInstr_code _ _ (by decide), _, rfl⟩

/-- A one-pixel sprite at the origin, with the pixel under it unlit or lit. -/
def onePixel (under : BitVec 64) : State :=
  { (codeMem 0xD011 0x300 [0x80]).setI 0x300 with fb := (Vector.replicate 32 0).set 0 under }

theorem drawn_onePixel (under : BitVec 64) (px py : Nat) (hx : px % 64 = 0) (hy : py % 32 = 0) :
    Drawn (onePixel under) 0 1 1 px py :=
  ⟨0, 0, by decide, by decide, (by decide : spriteBit ((codeMem 0xD011 0x300 [0x80]).setI 0x300) 0 0 = true),
    hx.symm, hy.symm⟩

/-- The empty range above memory and the last full range; the 1-bit of a sprite over a lit pixel (`VF` = 1), over an unlit
frame (`VF` = 0), and a pixel it does not address. -/
theorem witness_DrawXorsTheAddressedPixels :
    (0 : Nibble).val = 0 ∧ (State.reset.setI 0xFFE).i.toNat + (2 : Nibble).val ≤ 4096 ∧
      (onePixel 1).i.toNat + (1 : Nibble).val ≤ 4096 ∧
      (Drawn (onePixel 1) 0 1 1 64 32 ∧ (onePixel 1).getPixel 64 32 = true) ∧
      (∀ px py, Drawn (onePixel 0) 0 1 1 px py → (onePixel 0).getPixel px py = false) ∧
      ¬ Drawn (onePixel 1) 0 1 0 0 0 := by
  refine ⟨rfl, by decide, by decide, ⟨drawn_onePixel 1 64 32 rfl rfl, by decide⟩, fun px py _ => ?_, ?_⟩
  · have hz : (onePixel 0).fb = Vector.replicate 32 0 := by decide
    rw [State.getPixel, hz]
    simp [pixelAt]
  · rintro ⟨r, b, hr, -⟩
    exact absurd hr (by omega)

/-- A first draw of one pixel at the origin. -/
theorem witness_DrawingTwiceRestoresTheFrame :
    ∃ s t, s.i.toNat + (1 : Nibble).val ≤ 4096 ∧ exec (.drw 0 1 1) s = .next t ∧ t.getV 0 = s.getV 0 ∧ t.getV 1 = s.getV 1 :=
  ⟨(codeMem 0xD011 0x300 [0x80]).setI 0x300, _, by decide, rfl, rfl, rfl⟩

/-- A cycle that executes each of the three, and answers. -/
theorem witness_TimerCopies :
    (NextInstr (code 0xF307) (.ldVxDt 3) ∧ ∃ t, step (code 0xF307) = .next t) ∧
      (NextInstr (code 0xF315) (.ldDt 3) ∧ ∃ t, step (code 0xF315) = .next t) ∧
      (NextInstr (code 0xF318) (.ldSt 3) ∧ ∃ t, step (code 0xF318) = .next t) :=
  ⟨⟨nextInstr_code _ _ (by decide), _, rfl⟩, ⟨nextInstr_code _ _ (by decide), _, rfl⟩,
    ⟨nextInstr_code _ _ (by decide), _, rfl⟩⟩

/-- A key in the queue, and none, also as the next instruction of a cycle. -/
theorem witness_KeyWaitTakesAKeyOrRewinds :
    (∃ s, NextKey s 7 []) ∧ NoKey (code 0xF30A) ∧ NextInstr (code 0xF30A) (.ldK 3) ∧ ∃ t, step (code 0xF30A) = .next t := by
  obtain ⟨u, hu⟩ := key7_state
  exact ⟨⟨_, hu⟩, noKey_code _, nextInstr_code _ _ (by decide), _, rfl⟩

/-- A key equal to `V[0]`, a key that differs from it, no key. -/
theorem witness_KeySkipsConsumeAndCompare :
    (∃ s, NextKey s 7 [] ∧ (7 : Keycode).toNat = (s.getV 0).toNat) ∧
      (∃ s, NextKey s 7 [] ∧ (7 : Keycode).toNat ≠ (s.getV 0).toNat) ∧ ∃ s, NoKey s := by
  obtain ⟨u, hu⟩ := key7_state
  exact ⟨⟨(State.reset.setKeyq [u]).setV 0 7, hu, rfl⟩,
    ⟨State.reset.setKeyq [u], hu, (by decide : (7 : Keycode).toNat ≠ (0 : Byte).toNat)⟩,
    ⟨code 0, noKey_code 0⟩⟩

/-- A skip taken and one not taken, each jump, both cases of `CALL`, `RET` and `LD K,Vx`. -/
theorem witness_PcChangesAsListed :
    SkipTaken State.reset (.seByte 0 0) ∧ ¬ SkipTaken State.reset (.seByte 0 1) ∧ ¬ Transfers (.seByte 0 1) ∧
      (∃ t, exec (.jp 0xFFF) State.reset = .next t) ∧ (∃ t, exec (.jpV0 0xFFF) State.reset = .next t) ∧
      (∃ t, exec (.call 0) State.reset = .next t) ∧ (∃ t, exec .ret State.reset = .next t) ∧
      (∃ t, exec (.call 0) (State.reset.setStack (Vector.replicate 16 7) 16) = .next t) ∧
      (∃ t, exec .ret (State.reset.setStack (Vector.replicate 16 7) 16) = .next t) ∧
      (NoKey (code 0) ∧ ∃ t, exec (.ldK 0) (code 0) = .next t) ∧ ∃ s, ¬ NoKey s ∧ ∃ t, exec (.ldK 0) s = .next t := by
  obtain ⟨u, hu⟩ := keymap_onto 7
  refine ⟨rfl, by simp only [SkipTaken]; decide, fun h => h, ⟨_, rfl⟩, ⟨_, rfl⟩, ⟨_, rfl⟩, ⟨_, rfl⟩, ⟨_, rfl⟩, ⟨_, rfl⟩,
    ⟨noKey_code 0, _, rfl⟩, State.reset.setKeyq [u], fun h => ?_, _,
    exec_ldK_key 0 _ 7 [] (readKeyFrom_mapped keymap [] [] u 7 (by simp) hu)⟩
  have := h u (List.mem_singleton.2 rfl)
  rw [hu] at this
  cases this

theorem witness_OnlyNamedRegistersAreWritten :
    (∃ t, exec (.ldRegs 14) (State.reset.setI 0x300) = .next t) ∧ ¬ WritesReg 15 (.ldRegs 14) ∧
      (∃ t, exec (.addReg 1 2) State.reset = .next t) ∧ ¬ WritesReg 2 (.addReg 1 2) := by
  refine ⟨⟨_, rfl⟩, ?_, ⟨_, rfl⟩, ?_⟩ <;> simp only [WritesReg] <;> decide

theorem witness_StateIsWrittenOnlyByItsInstructions :
    ∃ t, exec (.addReg 1 2) State.reset = .next t := ⟨_, rfl⟩

/-- Each error kind raised, both causes of the out-of-bounds one, and a cycle that raises none. -/
theorem witness_ErrorsAreReportedExactlyWhenRaised :
    RaisesNext (State.reset.setPc 0xFFF) .outOfBounds ∧ RaisesNext ((code 0xF133).setI 0xFFE) .outOfBounds ∧
      RaisesNext (code 0xFFFF) .undefinedOpcode ∧
      RaisesNext ((code 0x2345).setStack (Vector.replicate 16 7) 16) .stackOverflow ∧
      RaisesNext (code 0x00EE) .stackUnderflow ∧ (∃ t, step (code 0xFFFF) = .next t) ∧ ∃ t, step (code 0x00EE) = .next t := by
  refine ⟨.inl ⟨rfl, .inl (by decide)⟩, .inl ⟨rfl, .inr ⟨.ldB 1, ⟨rfl, by decide, by decide⟩, ?_⟩⟩,
    .inr (.inl ⟨rfl, nextInstr_code _ _ (by decide)⟩),
    .inr (.inr (.inl ⟨rfl, rfl, 0x345, rfl, by decide, by decide⟩)),
    .inr (.inr (.inr ⟨rfl, rfl, nextInstr_code _ _ (by decide)⟩)), ⟨_, rfl⟩, ⟨_, rfl⟩⟩
  simp only [TransferOutOfRange]
  decide

/-- A running cycle that stops the block and one that does not. -/
theorem witness_OnlyStackErrorsStopTheBlock :
    (∃ t, step (code 0x00EE) = .next t ∧ t.run = .stopped) ∧ ∃ t, step (code 0x0000) = .next t ∧ t.run = .running :=
  ⟨⟨_, rfl, rfl⟩, ⟨_, rfl, rfl⟩⟩

/-- Every event but `Reset` and the refused `LoadProgram` answers in a fatally stopped state. -/
theorem witness_PortsHoldFatalErrorUntilReset :
    Inv stoppedFatally ∧ stoppedFatally.errKind = some .stackUnderflow ∧
      ∃ u, ∀ e ∈ [HostEvent.tick 0, .cancel, .keyPush [u]],
        e ≠ .reset ∧ ∃ t, hostStep e stoppedFatally = .next t := by
  obtain ⟨u, -⟩ := keymap_onto 5
  refine ⟨inv_stoppedFatally, rfl, u, fun e he => ?_⟩
  fin_cases he <;> exact ⟨fun h => HostEvent.noConfusion h, _, rfl⟩

end Sys2Proof.Tests
end

section
/-! PROOF. `SYS addr` (spec 40_cycle_and_system.md R130), assembled from lemmas that say once which field a word's
numbers are, what the cycle of a fetched instruction is, and which parts the steps around the dispatch change. -/

namespace Sys2Proof

/-! ### The fields of a word as numbers (R14) -/

theorem opField_toNat (w : Word) : (opField w).toNat = w.toNat / 4096 := by
  have := w.isLt
  rw [opField, BitVec.extractLsb'_toNat, Nat.shiftRight_eq_div_pow]
  omega

theorem kkField_toNat (w : Word) : (kkField w).toNat = w.toNat % 256 := BitVec.extractLsb'_toNat ..

theorem nnnField_eq_ofNat (w : Word) : nnnField w = BitVec.ofNat 12 w.toNat := rfl

theorem decode_selector0 (w : Word) (h : w.toNat / 4096 = 0) : decode w = decodeSel0 w := by
  simp [decode, opField_toNat, h]

/-- A word whose low byte is neither that of `CLS` nor that of `RET` is `SYS` under selector 0 (R95). -/
theorem decodeSel0_sys (w : Word) (hcls : w.toNat % 256 ≠ 0xE0) (hret : w.toNat % 256 ≠ 0xEE) :
    decodeSel0 w = .sys (nnnField w) := by
  have lowByte_ne (b : Byte) (h : w.toNat % 256 ≠ b.toNat) : kkField w ≠ b := fun hb =>
    h (by rw [← kkField_toNat, hb])
  rw [decodeSel0, if_neg (lowByte_ne 0xE0#8 hcls), if_neg (lowByte_ne 0xEE#8 hret)]

end Sys2Proof

namespace Sys2Proof.Machine

open Sys2Proof.Spec

/-! ### The cycle of a fetched instruction (R120) -/

theorem wordAtPc_eq (s : State) :
    wordAtPc s = wordOfBytes (Memory.read s.mem s.pc.toNat) (Memory.read s.mem (s.pc.toNat + 1)) := by
  rw [wordAtPc, ← wordOfBytes_toNat, BitVec.ofNat_toNat, BitVec.setWidth_eq]

theorem step_of_nextInstr {s : State} {i : Instr} (h : NextInstr s i) :
    step s = finishCycle (exec i (s.dispatchState (Config.rnd s.cycles))) := by
  obtain ⟨hrun, hpc, rfl⟩ := h
  rw [step_eq_tick, tick_running _ _ hrun, cycle_fetched _ _ _ (fetch_in_range s hpc), wordAtPc_eq]

/-- A timer counts down to 0 and stays there (R121). -/
theorem decTimer_toNat (t : Byte) : (decTimer t).toNat = t.toNat - 1 := by
  unfold decTimer
  split
  case isTrue h => subst h; rfl
  case isFalse h => bv_omega

/-- `pc` does not wrap past a fetch in range (R122). -/
theorem pc_add_two_toNat (s : State) (h : s.pc.toNat ≤ 4094) : (s.pc + 2).toNat = s.pc.toNat + 2 := by
  bv_omega

@[simp] theorem dispatchState_pc (s : State) (b : Byte) : (s.dispatchState b).pc = s.pc + 2 := rfl
@[simp] theorem dispatchState_dt (s : State) (b : Byte) : (s.dispatchState b).dt = decTimer s.dt := rfl
@[simp] theorem dispatchState_st (s : State) (b : Byte) : (s.dispatchState b).st = decTimer s.st := rfl

/-- `SYS` leaves the state it is dispatched in (R130). -/
theorem exec_sys (nnn : Addr12) (s : State) : exec (.sys nnn) s = .next s := rfl

end Sys2Proof.Machine

namespace Sys2Proof.Spec

open Sys2Proof.Machine

/-! ### Frames -/

theorem OnlyChanges.refl (changed : Part → Prop) (s : State) : OnlyChanges changed s s := fun p _ => by
  cases p <;> rfl

theorem Part.same_trans {s t u : State} {p : Part} (h : p.same s t) (h' : p.same t u) : p.same s u := by
  cases p <;> exact Eq.trans h' h

/-- Two changes one after the other change what either changes. -/
theorem OnlyChanges.trans {c c' d : Part → Prop} {s t u : State} (h : OnlyChanges c s t) (h' : OnlyChanges c' t u)
    (hc : ∀ p, c p → d p) (hc' : ∀ p, c' p → d p) : OnlyChanges d s u := fun p hp =>
  Part.same_trans (h p fun hcp => hp (hc p hcp)) (h' p fun hcp => hp (hc' p hcp))

/-- What steps 1 and 2 of a cycle change: the timers, `pc`, the outputs, which start quiet, and the model's own draw
latch and counter (R120; log entry 1). -/
def fetchParts : List Part := [.pc, .dt, .st, .present, .buzz, .err, .rnd, .cycles]

/-- What steps 4 and 5 of a cycle change (R125, R126). -/
def endParts : List Part := [.dirty, .present, .buzz]

theorem dispatchState_onlyChanges (s : State) (b : Byte) :
    OnlyChanges (fun p => p ∈ fetchParts) s (s.dispatchState b) := by
  intro p hp
  cases p with
  | pc | dt | st | present | buzz | err | rnd | cycles => exact absurd (by simp [fetchParts]) hp
  | _ => rfl

theorem endCycle_onlyChanges (s : State) : OnlyChanges (fun p => p ∈ endParts) s s.endCycle := by
  intro p hp
  cases p with
  | dirty | present | buzz => exact absurd (by simp [endParts]) hp
  | err => exact s.endCycle_out_err
  | _ => simp [Part.same, State.getPixel]

/-- A cycle whose instruction changes nothing: what the steps around the dispatch change, and no more. -/
theorem idleCycle_onlyChanges (s : State) (b : Byte) :
    OnlyChanges (fun p => p ∈ [.pc, .dt, .st, .dirty, .present, .buzz, .err, .rnd, .cycles]) s
      (s.dispatchState b).endCycle :=
  (dispatchState_onlyChanges s b).trans (endCycle_onlyChanges _) (by simp [fetchParts]) (by simp [endParts])

/-- Settles O26: `SYS` answers the state it is dispatched in, so its cycle is the steps around the dispatch alone. -/
theorem sysIsANoOp : Obligations.SysIsANoOp := by
  unfold Obligations.SysIsANoOp
  refine ⟨fun nnn s => ⟨s, exec_sys nnn s, .refl _ s, trivial⟩, fun w hsel hcls hret => ?_,
    fun nnn s t hnext hstep => ?_⟩
  · rw [decode_selector0 w hsel, decodeSel0_sys w hcls hret, nnnField_eq_ofNat]
  · rw [step_of_nextInstr hnext, exec_sys, finishCycle_next] at hstep
    obtain ⟨-, hpc, -⟩ := hnext
    cases hstep
    refine ⟨?_, ?_, ?_, idleCycle_onlyChanges _ _⟩
    · rw [State.endCycle_pc, dispatchState_pc, pc_add_two_toNat s hpc]
    · rw [State.endCycle_dt, dispatchState_dt, decTimer_toNat]
    · rw [State.endCycle_st, dispatchState_st, decTimer_toNat]

end Sys2Proof.Spec
end

section
/-! PROOF. `JP addr` (spec 41_control_flow.md R141): a word of selector 1 decodes to the jump, and the jump sets `pc` to
the zero-extended operand and is otherwise idle. -/

namespace Sys2Proof

theorem decode_selector1 (w : Word) (h : w.toNat / 4096 = 1) : decode w = .jp (nnnField w) := by
  simp [decode, opField_toNat, h]

end Sys2Proof

namespace Sys2Proof.Machine

/-- A 12-bit address keeps its value as a word (R92). -/
@[simp] theorem zextAddr_toNat (nnn : Addr12) : (zextAddr nnn).toNat = nnn.toNat :=
  BitVec.toNat_setWidth_of_le (by decide)

theorem exec_jp (nnn : Addr12) (s : State) : exec (.jp nnn) s = .next (s.setPc (zextAddr nnn)) := rfl

end Sys2Proof.Machine

namespace Sys2Proof.Spec

open Sys2Proof.Machine

theorem setPc_onlyChanges (s : State) (w : Word) : OnlyChanges (fun p => p = .pc) s (s.setPc w) := by
  intro p hp
  cases p with
  | pc => exact absurd rfl hp
  | _ => rfl

/-- Settles O28: `JP` is `setPc` of its zero-extended operand, which is the low 12 bits of every word of selector 1. -/
theorem jumpGoesToAddress : Obligations.JumpGoesToAddress := by
  unfold Obligations.JumpGoesToAddress
  refine ⟨fun nnn s => ⟨s.setPc (zextAddr nnn), exec_jp nnn s, setPc_onlyChanges s _, ?_⟩, fun w hsel => ?_⟩
  · simp only [State.setPc_pc, zextAddr_toNat]
  · rw [decode_selector1 w hsel, nnnField_eq_ofNat]

end Sys2Proof.Spec
end

section
/-! PROOF. `LD Vx,byte`, `ADD Vx,byte` and `LD Vx,Vy` (spec 43_alu.md R161 to R163): each is one register write, and a
register write has one effect, whatever the instruction that asks for it. -/

namespace Sys2Proof.Machine

theorem exec_ldByte (x : Reg) (kk : Byte) (s : State) : exec (.ldByte x kk) s = .next (s.setV x kk) := rfl

theorem exec_addByte (x : Reg) (kk : Byte) (s : State) :
    exec (.addByte x kk) s = .next (s.setV x (s.getV x + kk)) := rfl

theorem exec_ldReg (x y : Reg) (s : State) : exec (.ldReg x y) s = .next (s.setV x (s.getV y)) := rfl

end Sys2Proof.Machine

namespace Sys2Proof.Spec

open Sys2Proof.Machine

theorem setV_onlyChanges (s : State) (x : Reg) (b : Byte) : OnlyChanges (fun p => p = .reg x) s (s.setV x b) := by
  intro p hp
  cases p with
  | reg r => exact s.getV_setV_ne x r b fun hr => hp (congrArg Part.reg hr)
  | _ => rfl

/-- The effect of an instruction that is one register write: the register's new value is all there is to show. -/
theorem effect_of_setV {i : Instr} {s : State} {x : Reg} {b : Byte} {post : State → Prop}
    (hexec : exec i s = .next (s.setV x b)) (hpost : ∀ t : State, t.getV x = b → post t) :
    Effect i s (fun p => p = .reg x) post :=
  ⟨s.setV x b, hexec, setV_onlyChanges s x b, hpost _ (s.getV_setV_self x b)⟩

/-- Settles O37: each of the three is `setV` of `V[x]`, and byte addition is the sum modulo 256. -/
theorem loadsAndAddByteWriteOnlyVx : Obligations.LoadsAndAddByteWriteOnlyVx := by
  unfold Obligations.LoadsAndAddByteWriteOnlyVx
  refine fun x y kk s => ⟨effect_of_setV (exec_ldByte x kk s) fun _ h => h,
    effect_of_setV (exec_addByte x kk s) fun t h => ?_,
    effect_of_setV (exec_ldReg x y s) fun _ h => h⟩
  rw [h, BitVec.toNat_add]

end Sys2Proof.Spec
end

section
/-! PROOF. `CLS` (spec 45_display.md R192, R195): the instruction is `clearFrame`, which sets `dirty` whatever the frame
was, and the end of a running cycle turns `dirty` into `present` and keeps the frame. -/

namespace Sys2Proof.Machine

theorem exec_cls (s : State) : exec .cls s = .next s.clearFrame := rfl

@[simp] theorem getPixel_clearFrame (s : State) (x y : Nat) : s.clearFrame.getPixel x y = false := pixelAt_blank x y

@[simp] theorem getPixel_endCycle (s : State) (x y : Nat) : s.endCycle.getPixel x y = s.getPixel x y := by
  rw [State.getPixel, State.getPixel, State.endCycle_fb]

/-- The cycle of a running block ends with `present = 1` exactly when the frame is dirty (R125). -/
theorem presentPort_endCycle (s : State) (h : s.run = .running) : s.endCycle.presentPort = s.dirty := by
  rw [State.presentPort, State.runningPort, State.endCycle_run, State.endCycle_out_running s h, h]
  rfl

@[simp] theorem dispatchState_run (s : State) (b : Byte) : (s.dispatchState b).run = s.run := rfl

end Sys2Proof.Machine

namespace Sys2Proof.Spec

open Sys2Proof.Machine

theorem clearFrame_onlyChanges (s : State) :
    OnlyChanges (fun p => p = .dirty ∨ ∃ x y, p = .pixel x y) s s.clearFrame := by
  intro p hp
  cases p with
  | dirty => exact absurd (.inl rfl) hp
  | pixel x y => exact absurd (.inr ⟨x, y, rfl⟩) hp
  | _ => rfl

/-- Settles O49: `CLS` is `clearFrame`, and its cycle ends a running block's dirty, blank frame. -/
theorem clearTurnsEveryPixelOff : Obligations.ClearTurnsEveryPixelOff := by
  unfold Obligations.ClearTurnsEveryPixelOff
  refine ⟨fun s => ⟨s.clearFrame, exec_cls s, clearFrame_onlyChanges s, s.clearFrame_dirty, getPixel_clearFrame s⟩,
    fun s t hnext hstep => ?_⟩
  rw [step_of_nextInstr hnext, exec_cls, finishCycle_next] at hstep
  obtain ⟨hrun, -, -⟩ := hnext
  cases hstep
  refine ⟨?_, fun x y => ?_⟩
  · rw [presentPort_endCycle _ (by rw [State.clearFrame_run, dispatchState_run, hrun]), State.clearFrame_dirty]
  · rw [getPixel_endCycle, getPixel_clearFrame]

end Sys2Proof.Spec
end

section
/-! PROOF. `LD Vx,DT`, `LD DT,Vx` and `LD ST,Vx` (spec 46_timers.md R210 to R212): each is one write of a register or a
timer. The cycle dispatches it after step 1 has decremented both timers, and ends with the state the write leaves, whose
`ST` step 5 turns into `buzz`. -/

namespace Sys2Proof.Machine

open Sys2Proof.Spec

theorem exec_ldVxDt (x : Reg) (s : State) : exec (.ldVxDt x) s = .next (s.setV x s.dt) := rfl

theorem exec_ldDt (x : Reg) (s : State) : exec (.ldDt x) s = .next (s.setDt (s.getV x)) := rfl

theorem exec_ldSt (x : Reg) (s : State) : exec (.ldSt x) s = .next (s.setSt (s.getV x)) := rfl

@[simp] theorem getV_dispatchState (s : State) (b : Byte) (r : Reg) : (s.dispatchState b).getV r = s.getV r := rfl

/-- A cycle ends with steps 4 and 5 on the state its instruction answers (R120). -/
theorem step_eq_endCycle {s t u : State} {i : Instr} (hnext : NextInstr s i) (hstep : step s = .next t)
    (hexec : exec i (s.dispatchState (Config.rnd s.cycles)) = .next u) : t = u.endCycle := by
  rw [step_of_nextInstr hnext, hexec, finishCycle_next] at hstep
  cases hstep
  rfl

/-- The cycle of a running block ends with `buzz = 1` exactly when the sound timer is above 0 (R126). -/
theorem buzzPort_endCycle (s : State) (h : s.run = .running) : s.endCycle.buzzPort = true ↔ 0 < s.st.toNat := by
  have hport : s.endCycle.buzzPort = (s.st != 0) := by
    rw [State.buzzPort, State.runningPort, State.endCycle_run, State.endCycle_out_running s h, h]
    rfl
  rw [hport, bne_iff_ne]
  bv_omega

end Sys2Proof.Machine

namespace Sys2Proof.Spec

open Sys2Proof.Machine

theorem setDt_onlyChanges (s : State) (b : Byte) : OnlyChanges (fun p => p = .dt) s (s.setDt b) := by
  intro p hp
  cases p with
  | dt => exact absurd rfl hp
  | _ => rfl

theorem setSt_onlyChanges (s : State) (b : Byte) : OnlyChanges (fun p => p = .st) s (s.setSt b) := by
  intro p hp
  cases p with
  | st => exact absurd rfl hp
  | _ => rfl

/-- The cycle of `LD Vx,DT` reads `DT` after step 1 (R210). -/
theorem step_ldVxDt {x : Reg} {s t : State} (hnext : NextInstr s (.ldVxDt x)) (hstep : step s = .next t) :
    t.getV x = t.dt ∧ t.dt.toNat = s.dt.toNat - 1 := by
  obtain rfl := step_eq_endCycle hnext hstep (exec_ldVxDt x _)
  refine ⟨?_, ?_⟩
  · rw [State.getV_endCycle, State.getV_setV_self, State.endCycle_dt, State.setV_dt]
  · rw [State.endCycle_dt, State.setV_dt, dispatchState_dt, decTimer_toNat]

/-- The cycle of `LD DT,Vx` ends with `V[x]` in `DT`, whatever step 1 left (R211). -/
theorem step_ldDt {x : Reg} {s t : State} (hnext : NextInstr s (.ldDt x)) (hstep : step s = .next t) :
    t.dt = s.getV x := by
  obtain rfl := step_eq_endCycle hnext hstep (exec_ldDt x _)
  rw [State.endCycle_dt, State.setDt_dt, getV_dispatchState]

/-- The cycle of `LD ST,Vx` ends with `V[x]` in `ST`, and step 5 tests that value (R212). -/
theorem step_ldSt {x : Reg} {s t : State} (hnext : NextInstr s (.ldSt x)) (hstep : step s = .next t) :
    t.st = s.getV x ∧ (t.buzzPort = true ↔ 0 < (s.getV x).toNat) := by
  obtain rfl := step_eq_endCycle hnext hstep (exec_ldSt x _)
  obtain ⟨hrun, -, -⟩ := hnext
  refine ⟨?_, ?_⟩
  · rw [State.endCycle_st, State.setSt_st, getV_dispatchState]
  · rw [buzzPort_endCycle _ (by rw [State.setSt_run, dispatchState_run, hrun]), State.setSt_st, getV_dispatchState]

/-- Settles O52: each of the three is one write of the source's value, and its cycle ends with what that write left. -/
theorem timerCopies : Obligations.TimerCopies := by
  unfold Obligations.TimerCopies
  refine ⟨fun x s => ⟨effect_of_setV (exec_ldVxDt x s) fun _ h => h, ?_, ?_⟩, fun x s t hstep => ⟨?_, ?_, ?_⟩⟩
  · exact ⟨s.setDt (s.getV x), exec_ldDt x s, setDt_onlyChanges s _, s.setDt_dt _⟩
  · exact ⟨s.setSt (s.getV x), exec_ldSt x s, setSt_onlyChanges s _, s.setSt_st _⟩
  · exact fun hnext => step_ldVxDt hnext hstep
  · exact fun hnext => step_ldDt hnext hstep
  · exact fun hnext => step_ldSt hnext hstep

end Sys2Proof.Spec
end

section
/-! PROOF. The decoder and the encoder (spec 30_encoding.md R91 to R101). A word is its fields, the decoder is a
relation between fields and instructions with one row per kind (`Decoded`), and a mask keeps the fields it covers; each
statement about all words is then one case split over the rows. -/

namespace Sys2Proof

/-! ### A word is its fields, and its fields are numbers (R14, R91) -/

theorem packNNN_fields (w : Word) : packNNN (opField w) (nnnField w) = w := by
  have hw : w.extractLsb' 12 4 ++ w.extractLsb' 0 12 = w.extractLsb' 0 16 :=
    BitVec.extractLsb'_append_extractLsb'_eq_extractLsb' (rfl : 12 = 0 + 12)
  exact hw.trans BitVec.extractLsb'_eq_self

theorem packXKK_fields (w : Word) : packXKK (opField w) (xField w) (kkField w) = w := by
  have hnnn : w.extractLsb' 8 4 ++ w.extractLsb' 0 8 = w.extractLsb' 0 12 :=
    BitVec.extractLsb'_append_extractLsb'_eq_extractLsb' (rfl : 8 = 0 + 8)
  exact (congrArg (packNNN (opField w)) hnnn).trans (packNNN_fields w)

theorem packXYN_fields (w : Word) : packXYN (opField w) (xField w) (yField w) (BitVec.ofFin (nField w)) = w := by
  have hkk : w.extractLsb' 4 4 ++ w.extractLsb' 0 4 = w.extractLsb' 0 8 :=
    BitVec.extractLsb'_append_extractLsb'_eq_extractLsb' (rfl : 4 = 0 + 4)
  exact (congrArg (packXKK (opField w) (xField w)) hkk).trans (packXKK_fields w)

theorem nField_val (w : Word) : (nField w).val = w.toNat % 16 := BitVec.extractLsb'_toNat ..

/-! ### Decoding by rows -/

/-- The decoder as a relation: each row of R95 to R99 with the fields that select it and the instruction it gives. -/
inductive Decoded (w : Word) : Instr → Prop
  | cls (hop : opField w = 0x0#4) (hkk : kkField w = 0xE0#8) : Decoded w .cls
  | ret (hop : opField w = 0x0#4) (hkk : kkField w = 0xEE#8) : Decoded w .ret
  | sys (hop : opField w = 0x0#4) (hcls : kkField w ≠ 0xE0#8) (hret : kkField w ≠ 0xEE#8) :
      Decoded w (.sys (nnnField w))
  | jp (hop : opField w = 0x1#4) : Decoded w (.jp (nnnField w))
  | call (hop : opField w = 0x2#4) : Decoded w (.call (nnnField w))
  | seByte (hop : opField w = 0x3#4) : Decoded w (.seByte (xField w) (kkField w))
  | sneByte (hop : opField w = 0x4#4) : Decoded w (.sneByte (xField w) (kkField w))
  | seReg (hop : opField w = 0x5#4) : Decoded w (.seReg (xField w) (yField w))
  | ldByte (hop : opField w = 0x6#4) : Decoded w (.ldByte (xField w) (kkField w))
  | addByte (hop : opField w = 0x7#4) : Decoded w (.addByte (xField w) (kkField w))
  | ldReg (hop : opField w = 0x8#4) (hn : nField w = 0x0) : Decoded w (.ldReg (xField w) (yField w))
  | orReg (hop : opField w = 0x8#4) (hn : nField w = 0x1) : Decoded w (.orReg (xField w) (yField w))
  | andReg (hop : opField w = 0x8#4) (hn : nField w = 0x2) : Decoded w (.andReg (xField w) (yField w))
  | xorReg (hop : opField w = 0x8#4) (hn : nField w = 0x3) : Decoded w (.xorReg (xField w) (yField w))
  | addReg (hop : opField w = 0x8#4) (hn : nField w = 0x4) : Decoded w (.addReg (xField w) (yField w))
  | subReg (hop : opField w = 0x8#4) (hn : nField w = 0x5) : Decoded w (.subReg (xField w) (yField w))
  | shr (hop : opField w = 0x8#4) (hn : nField w = 0x6) : Decoded w (.shr (xField w))
  | subnReg (hop : opField w = 0x8#4) (hn : nField w = 0x7) : Decoded w (.subnReg (xField w) (yField w))
  | shl (hop : opField w = 0x8#4) (hn : nField w = 0xE) : Decoded w (.shl (xField w))
  | sneReg (hop : opField w = 0x9#4) : Decoded w (.sneReg (xField w) (yField w))
  | ldI (hop : opField w = 0xA#4) : Decoded w (.ldI (nnnField w))
  | jpV0 (hop : opField w = 0xB#4) : Decoded w (.jpV0 (nnnField w))
  | rnd (hop : opField w = 0xC#4) : Decoded w (.rnd (xField w) (kkField w))
  | drw (hop : opField w = 0xD#4) : Decoded w (.drw (xField w) (yField w) (nField w))
  | skp (hop : opField w = 0xE#4) (hkk : kkField w = 0x9E#8) : Decoded w (.skp (xField w))
  | sknp (hop : opField w = 0xE#4) (hkk : kkField w = 0xA1#8) : Decoded w (.sknp (xField w))
  | ldVxDt (hop : opField w = 0xF#4) (hkk : kkField w = 0x07#8) : Decoded w (.ldVxDt (xField w))
  | ldK (hop : opField w = 0xF#4) (hkk : kkField w = 0x0A#8) : Decoded w (.ldK (xField w))
  | ldDt (hop : opField w = 0xF#4) (hkk : kkField w = 0x15#8) : Decoded w (.ldDt (xField w))
  | ldSt (hop : opField w = 0xF#4) (hkk : kkField w = 0x18#8) : Decoded w (.ldSt (xField w))
  | addI (hop : opField w = 0xF#4) (hkk : kkField w = 0x1E#8) : Decoded w (.addI (xField w))
  | ldF (hop : opField w = 0xF#4) (hkk : kkField w = 0x29#8) : Decoded w (.ldF (xField w))
  | ldB (hop : opField w = 0xF#4) (hkk : kkField w = 0x33#8) : Decoded w (.ldB (xField w))
  | stRegs (hop : opField w = 0xF#4) (hkk : kkField w = 0x55#8) : Decoded w (.stRegs (xField w))
  | ldRegs (hop : opField w = 0xF#4) (hkk : kkField w = 0x65#8) : Decoded w (.ldRegs (xField w))
  | unknown8 (hop : opField w = 0x8#4) (hn : nField w ∈ [0x8, 0x9, 0xA, 0xB, 0xC, 0xD, 0xF]) : Decoded w .unknown
  | unknownE (hop : opField w = 0xE#4) (hkk : kkField w ∉ [0x9E#8, 0xA1#8]) : Decoded w .unknown
  | unknownF (hop : opField w = 0xF#4)
      (hkk : kkField w ∉ [0x07#8, 0x0A#8, 0x15#8, 0x18#8, 0x1E#8, 0x29#8, 0x33#8, 0x55#8, 0x65#8]) :
      Decoded w .unknown

theorem decodeSel0_decoded (w : Word) (hop : opField w = 0x0#4) : Decoded w (decodeSel0 w) := by
  unfold decodeSel0
  split_ifs with hcls hret
  · exact .cls hop hcls
  · exact .ret hop hret
  · exact .sys hop hcls hret

theorem decodeSel8_decoded (w : Word) (hop : opField w = 0x8#4) : Decoded w (decodeSel8 w) := by
  unfold decodeSel8
  split
  next hn => exact .ldReg hop (Fin.ext hn)
  next hn => exact .orReg hop (Fin.ext hn)
  next hn => exact .andReg hop (Fin.ext hn)
  next hn => exact .xorReg hop (Fin.ext hn)
  next hn => exact .addReg hop (Fin.ext hn)
  next hn => exact .subReg hop (Fin.ext hn)
  next hn => exact .shr hop (Fin.ext hn)
  next hn => exact .subnReg hop (Fin.ext hn)
  next hn => exact .shl hop (Fin.ext hn)
  next =>
    refine .unknown8 hop ?_
    simp only [List.mem_cons, List.not_mem_nil, or_false, Fin.ext_iff, imp_false] at *
    omega

theorem decodeSelE_decoded (w : Word) (hop : opField w = 0xE#4) : Decoded w (decodeSelE w) := by
  unfold decodeSelE
  split_ifs with hskp hsknp
  · exact .skp hop hskp
  · exact .sknp hop hsknp
  · exact .unknownE hop (by simp [hskp, hsknp])

theorem decodeSelF_decoded (w : Word) (hop : opField w = 0xF#4) : Decoded w (decodeSelF w) := by
  unfold decodeSelF
  split_ifs with h07 h0A h15 h18 h1E h29 h33 h55 h65
  · exact .ldVxDt hop h07
  · exact .ldK hop h0A
  · exact .ldDt hop h15
  · exact .ldSt hop h18
  · exact .addI hop h1E
  · exact .ldF hop h29
  · exact .ldB hop h33
  · exact .stRegs hop h55
  · exact .ldRegs hop h65
  · exact .unknownF hop (by simp [h07, h0A, h15, h18, h1E, h29, h33, h55, h65])

/-- Every word is read by a row of the relation: classification is total (R93). -/
theorem decode_decoded (w : Word) : Decoded w (decode w) := by
  have op_eq (op : BitVec 4) (h : (opField w).toNat = op.toNat) : opField w = op := BitVec.eq_of_toNat_eq h
  unfold decode
  split
  next h => exact decodeSel0_decoded w (op_eq _ h)
  next h => exact .jp (op_eq _ h)
  next h => exact .call (op_eq _ h)
  next h => exact .seByte (op_eq _ h)
  next h => exact .sneByte (op_eq _ h)
  next h => exact .seReg (op_eq _ h)
  next h => exact .ldByte (op_eq _ h)
  next h => exact .addByte (op_eq _ h)
  next h => exact decodeSel8_decoded w (op_eq _ h)
  next h => exact .sneReg (op_eq _ h)
  next h => exact .ldI (op_eq _ h)
  next h => exact .jpV0 (op_eq _ h)
  next h => exact .rnd (op_eq _ h)
  next h => exact .drw (op_eq _ h)
  next h => exact decodeSelE_decoded w (op_eq _ h)
  next =>
    refine decodeSelF_decoded w (op_eq _ ?_)
    simp only [imp_false] at *
    show (opField w).toNat = 15
    omega

/-- The rows exclude each other: a word has no second reading. -/
theorem Decoded.decode_eq {w : Word} {i : Instr} (h : Decoded w i) : decode w = i := by
  cases h with
  | unknown8 hop hn =>
    simp only [List.mem_cons, List.not_mem_nil, or_false] at hn
    rcases hn with hn | hn | hn | hn | hn | hn | hn <;> simp [decode, decodeSel8, hop, hn]
  | _ => simp_all [decode, decodeSel0, decodeSel8, decodeSelE, decodeSelF]

theorem decode_eq_iff (w : Word) (i : Instr) : decode w = i ↔ Decoded w i :=
  ⟨fun h => h ▸ decode_decoded w, Decoded.decode_eq⟩

/-! ### Decode after encode -/

/-- The decoder reads back every well-formed instruction: the fields of a packed word are what was packed (R91). -/
theorem decode_encode (i : Instr) (hwf : i.wf = true) : decode (encode i) = i := by
  cases i with
  | cls | ret | unknown => rfl
  | sys nnn =>
    obtain ⟨hcls, hret⟩ : nnn.setWidth 8 ≠ 0xE0#8 ∧ nnn.setWidth 8 ≠ 0xEE#8 := by
      simpa [Instr.wf, sysOperandOk] using hwf
    simp [encode, decode, decodeSel0, kkField_packNNN, hcls, hret]
  | ldReg | orReg | andReg | xorReg | addReg | subReg | shr | subnReg | shl => simp [encode, decode, decodeSel8]
  | skp | sknp => simp [encode, decode, decodeSelE]
  | ldVxDt | ldK | ldDt | ldSt | addI | ldF | ldB | stRegs | ldRegs => simp [encode, decode, decodeSelF]
  | _ => simp [encode, decode]

/-- Settles O2: the bytes of `encode` are read back as its word, and that word as its instruction. -/
theorem decodeOfEncodeGivesInstruction : Obligations.DecodeOfEncodeGivesInstruction := by
  unfold Obligations.DecodeOfEncodeGivesInstruction
  intro i rest hwf
  simp only [encodeBytes, List.cons_append, List.nil_append, decodeBytes, wordOfBytes_split, decode_encode i hwf]

/-! ### The masks of the map (R99) and of the ignored bits (R100), field by field

A mask covers a field when it is all ones there; the masked word then keeps the field, and is determined by the fields
covered. -/

section masks
variable {w m : Word}

theorem opField_and (hm : opField m = BitVec.allOnes 4) : opField (w &&& m) = opField w := by
  unfold opField at *
  rw [BitVec.extractLsb'_and, hm, BitVec.and_allOnes]

theorem xField_and (hm : m.extractLsb' 8 4 = BitVec.allOnes 4) : xField (w &&& m) = xField w := by
  rw [xField, BitVec.extractLsb'_and, hm, BitVec.and_allOnes, xField]

theorem yField_and (hm : m.extractLsb' 4 4 = BitVec.allOnes 4) : yField (w &&& m) = yField w := by
  rw [yField, BitVec.extractLsb'_and, hm, BitVec.and_allOnes, yField]

theorem nField_and (hm : m.extractLsb' 0 4 = BitVec.allOnes 4) : nField (w &&& m) = nField w := by
  rw [nField, BitVec.extractLsb'_and, hm, BitVec.and_allOnes, nField]

theorem kkField_and (hm : kkField m = BitVec.allOnes 8) : kkField (w &&& m) = kkField w := by
  unfold kkField at *
  rw [BitVec.extractLsb'_and, hm, BitVec.and_allOnes]

end masks

/-- A test of the selector alone. -/
theorem selector_test (w b : Word) (hb : b &&& 0xF000#16 = b) : w &&& 0xF000#16 = b ↔ opField w = opField b := by
  refine ⟨fun h => by rw [← h, opField_and rfl], fun h => ?_⟩
  rw [← packNNN_fields w, packNNN_and_selector, h, ← packNNN_and_selector _ (nnnField b), packNNN_fields, hb]

/-- A test of the selector and the low byte. -/
theorem lowByte_test (w b : Word) (hb : b &&& 0xF0FF#16 = b) :
    w &&& 0xF0FF#16 = b ↔ opField w = opField b ∧ kkField w = kkField b := by
  refine ⟨fun h => by rw [← h, opField_and rfl, kkField_and rfl]; exact ⟨rfl, rfl⟩, fun ⟨hop, hkk⟩ => ?_⟩
  rw [← packXKK_fields w, packXKK_and_lowByte, hop, hkk, ← packXKK_and_lowByte _ (xField b), packXKK_fields, hb]

/-- A test of the selector and the low nibble. -/
theorem lowNibble_test (w b : Word) (hb : b &&& 0xF00F#16 = b) :
    w &&& 0xF00F#16 = b ↔ opField w = opField b ∧ nField w = nField b := by
  refine ⟨fun h => by rw [← h, opField_and rfl, nField_and rfl]; exact ⟨rfl, rfl⟩, fun ⟨hop, hn⟩ => ?_⟩
  rw [← packXYN_fields w, packXYN_and_lowNibble, hop, hn, ← packXYN_and_lowNibble _ (xField b) (yField b),
    packXYN_fields, hb]

/-- The test of `SE Vx,Vy` and `SNE Vx,Vy`, whose low nibble is ignored. -/
theorem ignoredNibble_test (w : Word) (op : BitVec 4) (x y : Reg) :
    w &&& 0xFFF0#16 = packXYN op x y 0x0#4 ↔ opField w = op ∧ xField w = x ∧ yField w = y := by
  refine ⟨fun h => ?_, fun ⟨hop, hx, hy⟩ => ?_⟩
  · rw [← opField_and (w := w) (m := 0xFFF0#16) rfl, ← xField_and (w := w) (m := 0xFFF0#16) rfl,
      ← yField_and (w := w) (m := 0xFFF0#16) rfl, h]
    simp
  · have hn : nField (w &&& 0xFFF0#16) = 0 := by
      rw [nField, BitVec.extractLsb'_and]
      exact congrArg BitVec.toFin BitVec.and_zero
    rw [← packXYN_fields (w &&& 0xFFF0#16), opField_and rfl, xField_and rfl, yField_and rfl, hn, hop, hx, hy]
    rfl

/-- The test of `SHR` and `SHL`, whose `y` field is ignored. -/
theorem ignoredY_test (w : Word) (op : BitVec 4) (x : Reg) (n : BitVec 4) :
    w &&& 0xFF0F#16 = packXYN op x 0 n ↔ opField w = op ∧ xField w = x ∧ nField w = n.toFin := by
  refine ⟨fun h => ?_, fun ⟨hop, hx, hn⟩ => ?_⟩
  · rw [← opField_and (w := w) (m := 0xFF0F#16) rfl, ← xField_and (w := w) (m := 0xFF0F#16) rfl,
      ← nField_and (w := w) (m := 0xFF0F#16) rfl, h]
    simp
  · have hy : yField (w &&& 0xFF0F#16) = 0 := by
      rw [yField, BitVec.extractLsb'_and]
      exact congrArg BitVec.toFin BitVec.and_zero
    rw [← packXYN_fields (w &&& 0xFF0F#16), opField_and rfl, xField_and rfl, nField_and rfl, hy, hop, hx, hn]

theorem and_allBits (w : Word) : w &&& 0xFFFF#16 = w := BitVec.and_allOnes

/-- A word agrees with the encoding of what it decodes to on every bit the decoder reads. -/
theorem Decoded.and_significantBits {w : Word} {i : Instr} (h : Decoded w i) (hi : i ≠ .unknown) :
    w &&& significantBits i = encode i := by
  have hnnn := packNNN_fields w
  have hxkk := packXKK_fields w
  have hxyn := packXYN_fields w
  cases h with
  | cls hop hkk | ret hop hkk => exact (lowByte_test w _ rfl).2 ⟨hop, hkk⟩
  | seReg hop | sneReg hop => exact (ignoredNibble_test w _ _ _).2 ⟨hop, rfl, rfl⟩
  | shr hop hn | shl hop hn => exact (ignoredY_test w _ _ _).2 ⟨hop, rfl, hn⟩
  | sys hop | jp hop | call hop | ldI hop | jpV0 hop =>
    rw [hop] at hnnn
    exact (and_allBits w).trans hnnn.symm
  | seByte hop | sneByte hop | ldByte hop | addByte hop | rnd hop =>
    rw [hop] at hxkk
    exact (and_allBits w).trans hxkk.symm
  | ldReg hop hn | orReg hop hn | andReg hop hn | xorReg hop hn | addReg hop hn | subReg hop hn | subnReg hop hn =>
    rw [hop, hn] at hxyn
    exact (and_allBits w).trans hxyn.symm
  | drw hop =>
    rw [hop] at hxyn
    exact (and_allBits w).trans hxyn.symm
  | skp hop hkk | sknp hop hkk | ldVxDt hop hkk | ldK hop hkk | ldDt hop hkk | ldSt hop hkk | addI hop hkk
  | ldF hop hkk | ldB hop hkk | stRegs hop hkk | ldRegs hop hkk =>
    rw [hop, hkk] at hxkk
    exact (and_allBits w).trans hxkk.symm
  | unknown8 | unknownE | unknownF => exact absurd rfl hi

/-- A word that agrees with an encoding on the bits the decoder reads for it decodes to what was encoded. -/
theorem decode_of_and_significantBits {w : Word} {i : Instr} (hwf : i.wf = true) (hi : i ≠ .unknown)
    (h : w &&& significantBits i = encode i) : decode w = i := by
  cases i with
  | cls =>
    obtain ⟨hop, hkk⟩ := (lowByte_test w _ rfl).1 h
    exact (Decoded.cls hop hkk).decode_eq
  | ret =>
    obtain ⟨hop, hkk⟩ := (lowByte_test w _ rfl).1 h
    exact (Decoded.ret hop hkk).decode_eq
  | seReg x y =>
    obtain ⟨hop, rfl, rfl⟩ := (ignoredNibble_test w _ _ _).1 h
    exact (Decoded.seReg hop).decode_eq
  | sneReg x y =>
    obtain ⟨hop, rfl, rfl⟩ := (ignoredNibble_test w _ _ _).1 h
    exact (Decoded.sneReg hop).decode_eq
  | shr x =>
    obtain ⟨hop, rfl, hn⟩ := (ignoredY_test w _ _ _).1 h
    exact (Decoded.shr hop hn).decode_eq
  | shl x =>
    obtain ⟨hop, rfl, hn⟩ := (ignoredY_test w _ _ _).1 h
    exact (Decoded.shl hop hn).decode_eq
  | unknown => exact absurd rfl hi
  | _ =>
    have hw : w = encode _ := (and_allBits w).symm.trans h
    rw [hw, decode_encode _ hwf]

/-- Settles O3: a word agrees with what it decodes to on the bits that count, and nothing else agrees with it there. -/
theorem decodesIffSignificantBitsAgree : Obligations.DecodesIffSignificantBitsAgree := by
  unfold Obligations.DecodesIffSignificantBitsAgree
  intro w i hwf hi
  refine ⟨fun h => ?_, decode_of_and_significantBits hwf hi⟩
  exact ((decode_eq_iff w i).1 h).and_significantBits hi

/-! ### The map, the `UNKNOWN` words and the operands -/

/-- The rows of the map that a word with this selector can match. -/
def rowsOf (op : BitVec 4) : List OpcodeRow := opcodeMap.filter fun r => opField r.bits == op &&& opField r.mask

/-- The rows of other selectors never match (R99). -/
theorem firstMatch_eq_rowsOf (w : Word) :
    firstMatch w = ((rowsOf (opField w)).find? fun r => w &&& r.mask == r.bits).map (·.kind) := by
  have hsel (r : OpcodeRow) (h : w &&& r.mask = r.bits) : opField r.bits = opField w &&& opField r.mask := by
    rw [← h, opField, BitVec.extractLsb'_and]
    rfl
  rw [firstMatch, rowsOf, List.find?_filter]
  congr 2
  funext r
  rw [Bool.eq_iff_iff, decide_eq_true_eq]
  simp only [beq_iff_eq]
  exact ⟨fun h => ⟨hsel r h, h⟩, And.right⟩

/-- A word matches the row that its masked word matches, where the mask covers those of the rows of its selector. -/
theorem firstMatch_of_masked {w m b : Word} {k : Kind} (hb : w &&& m = b)
    (hm : opField m = BitVec.allOnes 4 ∧ ∀ r ∈ rowsOf (opField b), m &&& r.mask = r.mask)
    (hk : firstMatch b = some k) : firstMatch w = some k := by
  obtain ⟨hop, hrows⟩ := hm
  have hw : opField b = opField w := by rw [← hb, opField_and hop]
  rw [← hk, firstMatch_eq_rowsOf, firstMatch_eq_rowsOf, ← hw]
  congr 1
  refine List.find?_congr fun r hr => ?_
  rw [← hb, BitVec.and_assoc, hrows r hr]

/-- A word whose low byte is none of those its selector's first rows name matches the row after them. -/
theorem firstMatch_of_skipped {w : Word} {skipped rest : List OpcodeRow} {r : OpcodeRow}
    (hrows : rowsOf (opField w) = skipped ++ r :: rest) (hmask : ∀ q ∈ skipped, q.mask = 0xF0FF#16)
    (hkk : kkField w ∉ skipped.map fun q => kkField q.bits) (hr : w &&& r.mask = r.bits) :
    firstMatch w = some r.kind := by
  have hskip : skipped.find? (fun q => w &&& q.mask == q.bits) = none := by
    refine List.find?_eq_none.2 fun q hq hw => hkk (List.mem_map.2 ⟨q, hq, ?_⟩)
    rw [← eq_of_beq hw, hmask q hq, kkField_and rfl]
  rw [firstMatch_eq_rowsOf, hrows, List.find?_append, hskip, Option.none_or,
    List.find?_cons_of_pos (by simpa using hr), Option.map_some]

/-- The first row of the map that selects a word is that of the instruction it decodes to. -/
theorem Decoded.firstMatch_eq {w : Word} {i : Instr} (h : Decoded w i) : firstMatch w = some i.kind := by
  cases h with
  | jp hop => exact firstMatch_of_masked ((selector_test w 0x1000#16 rfl).2 hop) (by decide) rfl
  | call hop => exact firstMatch_of_masked ((selector_test w 0x2000#16 rfl).2 hop) (by decide) rfl
  | seByte hop => exact firstMatch_of_masked ((selector_test w 0x3000#16 rfl).2 hop) (by decide) rfl
  | sneByte hop => exact firstMatch_of_masked ((selector_test w 0x4000#16 rfl).2 hop) (by decide) rfl
  | seReg hop => exact firstMatch_of_masked ((selector_test w 0x5000#16 rfl).2 hop) (by decide) rfl
  | ldByte hop => exact firstMatch_of_masked ((selector_test w 0x6000#16 rfl).2 hop) (by decide) rfl
  | addByte hop => exact firstMatch_of_masked ((selector_test w 0x7000#16 rfl).2 hop) (by decide) rfl
  | sneReg hop => exact firstMatch_of_masked ((selector_test w 0x9000#16 rfl).2 hop) (by decide) rfl
  | ldI hop => exact firstMatch_of_masked ((selector_test w 0xA000#16 rfl).2 hop) (by decide) rfl
  | jpV0 hop => exact firstMatch_of_masked ((selector_test w 0xB000#16 rfl).2 hop) (by decide) rfl
  | rnd hop => exact firstMatch_of_masked ((selector_test w 0xC000#16 rfl).2 hop) (by decide) rfl
  | drw hop => exact firstMatch_of_masked ((selector_test w 0xD000#16 rfl).2 hop) (by decide) rfl
  | cls hop hkk => exact firstMatch_of_masked ((lowByte_test w 0x00E0#16 rfl).2 ⟨hop, hkk⟩) (by decide) rfl
  | ret hop hkk => exact firstMatch_of_masked ((lowByte_test w 0x00EE#16 rfl).2 ⟨hop, hkk⟩) (by decide) rfl
  | skp hop hkk => exact firstMatch_of_masked ((lowByte_test w 0xE09E#16 rfl).2 ⟨hop, hkk⟩) (by decide) rfl
  | sknp hop hkk => exact firstMatch_of_masked ((lowByte_test w 0xE0A1#16 rfl).2 ⟨hop, hkk⟩) (by decide) rfl
  | ldVxDt hop hkk => exact firstMatch_of_masked ((lowByte_test w 0xF007#16 rfl).2 ⟨hop, hkk⟩) (by decide) rfl
  | ldK hop hkk => exact firstMatch_of_masked ((lowByte_test w 0xF00A#16 rfl).2 ⟨hop, hkk⟩) (by decide) rfl
  | ldDt hop hkk => exact firstMatch_of_masked ((lowByte_test w 0xF015#16 rfl).2 ⟨hop, hkk⟩) (by decide) rfl
  | ldSt hop hkk => exact firstMatch_of_masked ((lowByte_test w 0xF018#16 rfl).2 ⟨hop, hkk⟩) (by decide) rfl
  | addI hop hkk => exact firstMatch_of_masked ((lowByte_test w 0xF01E#16 rfl).2 ⟨hop, hkk⟩) (by decide) rfl
  | ldF hop hkk => exact firstMatch_of_masked ((lowByte_test w 0xF029#16 rfl).2 ⟨hop, hkk⟩) (by decide) rfl
  | ldB hop hkk => exact firstMatch_of_masked ((lowByte_test w 0xF033#16 rfl).2 ⟨hop, hkk⟩) (by decide) rfl
  | stRegs hop hkk => exact firstMatch_of_masked ((lowByte_test w 0xF055#16 rfl).2 ⟨hop, hkk⟩) (by decide) rfl
  | ldRegs hop hkk => exact firstMatch_of_masked ((lowByte_test w 0xF065#16 rfl).2 ⟨hop, hkk⟩) (by decide) rfl
  | ldReg hop hn => exact firstMatch_of_masked ((lowNibble_test w 0x8000#16 rfl).2 ⟨hop, hn⟩) (by decide) rfl
  | orReg hop hn => exact firstMatch_of_masked ((lowNibble_test w 0x8001#16 rfl).2 ⟨hop, hn⟩) (by decide) rfl
  | andReg hop hn => exact firstMatch_of_masked ((lowNibble_test w 0x8002#16 rfl).2 ⟨hop, hn⟩) (by decide) rfl
  | xorReg hop hn => exact firstMatch_of_masked ((lowNibble_test w 0x8003#16 rfl).2 ⟨hop, hn⟩) (by decide) rfl
  | addReg hop hn => exact firstMatch_of_masked ((lowNibble_test w 0x8004#16 rfl).2 ⟨hop, hn⟩) (by decide) rfl
  | subReg hop hn => exact firstMatch_of_masked ((lowNibble_test w 0x8005#16 rfl).2 ⟨hop, hn⟩) (by decide) rfl
  | shr hop hn => exact firstMatch_of_masked ((lowNibble_test w 0x8006#16 rfl).2 ⟨hop, hn⟩) (by decide) rfl
  | subnReg hop hn => exact firstMatch_of_masked ((lowNibble_test w 0x8007#16 rfl).2 ⟨hop, hn⟩) (by decide) rfl
  | shl hop hn => exact firstMatch_of_masked ((lowNibble_test w 0x800E#16 rfl).2 ⟨hop, hn⟩) (by decide) rfl
  | sys hop hcls hret =>
    have hkk : kkField w ∉ [0xE0#8, 0xEE#8] := by simp [hcls, hret]
    exact firstMatch_of_skipped (skipped := (rowsOf 0x0#4).take 2) (rest := (rowsOf 0x0#4).drop 3)
      (r := ⟨.sys, 0x0000#16, 0xF000#16⟩) (by rw [hop]; decide) (by decide) hkk ((selector_test w 0 rfl).2 hop)
  | unknown8 hop hn =>
    have hrows : ∀ n ∈ [0x8, 0x9, 0xA, 0xB, 0xC, 0xD, 0xF],
        firstMatch (packXYN 0x8#4 0 0 (BitVec.ofFin n)) = some .unknown := by decide
    have hw : w &&& 0xF00F#16 = packXYN 0x8#4 0 0 (BitVec.ofFin (nField w)) := by
      rw [← packXYN_and_lowNibble _ (xField w) (yField w), ← hop, packXYN_fields]
    exact firstMatch_of_masked hw ⟨rfl, by rw [opField_packXYN]; decide⟩ (hrows _ hn)
  | unknownE hop hkk =>
    exact firstMatch_of_skipped (skipped := (rowsOf 0xE#4).take 2) (rest := [])
      (r := ⟨.unknown, 0x0000#16, 0x0000#16⟩) (by rw [hop]; decide) (by decide) hkk BitVec.and_zero
  | unknownF hop hkk =>
    exact firstMatch_of_skipped (skipped := (rowsOf 0xF#4).take 9) (rest := [])
      (r := ⟨.unknown, 0x0000#16, 0x0000#16⟩) (by rw [hop]; decide) (by decide) hkk BitVec.and_zero

/-- Settles O4: the row that decides how a word decodes is the first of the map that selects it. -/
theorem decoderFollowsOpcodeMap : Obligations.DecoderFollowsOpcodeMap := by
  unfold Obligations.DecoderFollowsOpcodeMap
  exact fun w => (decode_decoded w).firstMatch_eq

/-- Settles O5: `UNKNOWN` has three rows, one for each selector with sub-opcodes, and the fields are these numbers. -/
theorem unknownWordsAreExactly : Obligations.UnknownWordsAreExactly := by
  unfold Obligations.UnknownWordsAreExactly
  intro w
  have mem_val {l : List Nibble} : (nField w).val ∈ l.map Fin.val ↔ nField w ∈ l :=
    List.mem_map_of_injective Fin.val_injective
  have mem_toNat {l : List Byte} : (kkField w).toNat ∈ l.map BitVec.toNat ↔ kkField w ∈ l :=
    List.mem_map_of_injective BitVec.toNat_injective
  rw [decode_eq_iff, ← opField_toNat, ← nField_val, ← kkField_toNat]
  constructor
  · intro h
    cases h with
    | unknown8 hop hn => exact .inl ⟨by rw [hop]; rfl, mem_val.2 hn⟩
    | unknownE hop hkk => exact .inr (.inl ⟨by rw [hop]; rfl, fun h => hkk (mem_toNat.1 h)⟩)
    | unknownF hop hkk => exact .inr (.inr ⟨by rw [hop]; rfl, fun h => hkk (mem_toNat.1 h)⟩)
  · rintro (⟨hop, hn⟩ | ⟨hop, hkk⟩ | ⟨hop, hkk⟩)
    · exact .unknown8 (BitVec.eq_of_toNat_eq hop) (mem_val.1 hn)
    · exact .unknownE (BitVec.eq_of_toNat_eq hop) fun h => hkk (mem_toNat.2 h)
    · exact .unknownF (BitVec.eq_of_toNat_eq hop) fun h => hkk (mem_toNat.2 h)

/-- What a row gives is well-formed, and its operands are the fields R101 lists. -/
theorem Decoded.operands_eq {w : Word} {i : Instr} (h : Decoded w i) :
    i.operands = operandsFor i.kind w ∧ i.wf = true := by
  cases h with
  | sys hop hcls hret =>
    have hkk : (nnnField w).setWidth 8 = kkField w := by
      rw [← kkField_packNNN (opField w), packNNN_fields]
    exact ⟨rfl, by simp [Instr.wf, sysOperandOk, hkk, hcls, hret]⟩
  | _ => exact ⟨rfl, rfl⟩

/-- Settles O6: each row takes its operands from the listed fields. -/
theorem operandsAreTheListedFields : Obligations.OperandsAreTheListedFields := by
  unfold Obligations.OperandsAreTheListedFields
  exact fun w => (decode_decoded w).operands_eq

/-- Settles O1: the sixteen words are closed terms, and the decoder computes. -/
theorem sampleWordsDecode : Obligations.SampleWordsDecode := by
  unfold Obligations.SampleWordsDecode
  decide

end Sys2Proof
end

section
/-! PROOF. What each state operation leaves unchanged, said once per operation, and what a raise does (spec
60_exceptions.md R240 to R252): the rules every later frame is put together from. -/

namespace Sys2Proof.Machine

open Sys2Proof.Spec

/-! ### A raise -/

section raised
variable (k : ErrKind) (s : State)

@[simp] theorem raised_v : (raised k s).v = s.v := by cases k <;> rfl
@[simp] theorem raised_i : (raised k s).i = s.i := by cases k <;> rfl
@[simp] theorem raised_pc : (raised k s).pc = s.pc := by cases k <;> rfl
@[simp] theorem raised_dt : (raised k s).dt = s.dt := by cases k <;> rfl
@[simp] theorem raised_st : (raised k s).st = s.st := by cases k <;> rfl
@[simp] theorem raised_stack : (raised k s).stack = s.stack := by cases k <;> rfl
@[simp] theorem raised_sp : (raised k s).sp = s.sp := by cases k <;> rfl
@[simp] theorem raised_mem : (raised k s).mem = s.mem := by cases k <;> rfl
@[simp] theorem raised_fb : (raised k s).fb = s.fb := by cases k <;> rfl
@[simp] theorem raised_dirty : (raised k s).dirty = s.dirty := by cases k <;> rfl
@[simp] theorem raised_keyq : (raised k s).keyq = s.keyq := by cases k <;> rfl
@[simp] theorem raised_out : (raised k s).out = { s.out with err := some (k, s.fetchAddr) } := by cases k <;> rfl
@[simp] theorem raised_rnd : (raised k s).rnd = s.rnd := by cases k <;> rfl
@[simp] theorem raised_cycles : (raised k s).cycles = s.cycles := by cases k <;> rfl
@[simp] theorem getV_raised (r : Reg) : (raised k s).getV r = s.getV r := by cases k <;> rfl
theorem raised_run : (raised k s).run = if k.isFatal then .stopped else s.run := by cases k <;> rfl
theorem raised_errKind : (raised k s).errKind = if k.isFatal then some k else s.errKind := by cases k <;> rfl
theorem raised_errAddr : (raised k s).errAddr = if k.isFatal then s.fetchAddr else s.errAddr := by cases k <;> rfl

end raised

/-- The error kind an instruction raises in the state it is dispatched in (R240, the columns "raised by" and "when"). -/
inductive Raises (s : State) : Instr → ErrKind → Prop
  | outOfBounds {i : Instr} (h : TransferOutOfRange s i) : Raises s i .outOfBounds
  | undefinedOpcode : Raises s .unknown .undefinedOpcode
  | stackOverflow (nnn : Addr12) (h : s.sp.val = 16) : Raises s (.call nnn) .stackOverflow
  | stackUnderflow (h : s.sp.val = 0) : Raises s .ret .stackUnderflow

theorem exec_transferOutOfRange {i : Instr} {s : State} (h : TransferOutOfRange s i) :
    exec i s = .next (raised .outOfBounds s) := by
  cases i with
  | drw x y n =>
    obtain ⟨hn, hr⟩ := h
    exact exec_drw_out x y n s (by omega) hr
  | ldB x => exact exec_ldB_out x s h
  | stRegs x => exact exec_stRegs_out x s h
  | ldRegs x => exact exec_ldRegs_out x s h
  | _ => exact h.elim

/-- An instruction that raises does nothing but raise (R250, R252). -/
theorem exec_of_raises {i : Instr} {s : State} {k : ErrKind} (h : Raises s i k) : exec i s = .next (raised k s) := by
  cases h with
  | outOfBounds h => exact exec_transferOutOfRange h
  | undefinedOpcode => rfl
  | stackOverflow nnn h => exact exec_call_full nnn s h
  | stackUnderflow h => exact exec_ret_empty s h

end Sys2Proof.Machine

namespace Sys2Proof.Spec

open Sys2Proof.Machine

/-! ### Frames -/

theorem OnlyChanges.mono {c d : Part → Prop} {s t : State} (h : OnlyChanges c s t) (hcd : ∀ p, c p → d p) :
    OnlyChanges d s t := fun p hp => h p fun hc => hp (hcd p hc)

theorem setI_onlyChanges (s : State) (w : Word) : OnlyChanges (fun p => p = .i) s (s.setI w) := by
  intro p hp
  cases p with
  | i => exact absurd rfl hp
  | _ => rfl

theorem setKeyq_onlyChanges (s : State) (q : List KeySymbol) : OnlyChanges (fun p => p = .keyq) s (s.setKeyq q) := by
  intro p hp
  cases p with
  | keyq => exact absurd rfl hp
  | _ => rfl

theorem skipIf_onlyChanges (s : State) (c : Bool) : OnlyChanges (fun p => p = .pc) s (s.skipIf c) := by
  cases c with
  | false => exact .refl _ s
  | true => exact setPc_onlyChanges s _

/-- A change of the stack shows in `sp` and in the entries that differ. -/
theorem setStack_onlyChanges (s : State) (stack : Vector Word 16) (sp : Fin 17) :
    OnlyChanges (fun p => p = .sp ∨ ∃ k : Fin 16, p = .stackEntry k ∧ stack[k] ≠ s.stack[k]) s
      (s.setStack stack sp) := by
  intro p hp
  cases p with
  | sp => exact absurd (.inl rfl) hp
  | stackEntry k => exact by_contra fun hk => hp (.inr ⟨k, rfl, hk⟩)
  | _ => rfl

/-- A change of memory shows in the addresses that read differently. -/
theorem setMem_onlyChanges (s : State) (m : Memory) :
    OnlyChanges (fun p => ∃ a, p = .mem a ∧ Memory.read m a ≠ Memory.read s.mem a) s (s.setMem m) := by
  intro p hp
  cases p with
  | mem a => exact by_contra fun ha => hp ⟨a, rfl, ha⟩
  | _ => rfl

/-- A block load shows in the registers that read differently. -/
theorem loadV_onlyChanges (s : State) (bytes : List Byte) :
    OnlyChanges (fun p => ∃ r, p = .reg r ∧ (s.loadV bytes).getV r ≠ s.getV r) s (s.loadV bytes) := by
  intro p hp
  cases p with
  | reg r => exact by_contra fun hr => hp ⟨r, rfl, hr⟩
  | _ => simp [Part.same, State.getPixel]

theorem drawSprite_onlyChanges (s : State) (rows : List Byte) (x y : Nat) :
    OnlyChanges (fun p => p = .dirty ∨ ∃ px py, p = .pixel px py) s (s.drawSprite rows x y).2 := by
  intro p hp
  cases p with
  | dirty => exact absurd (.inl rfl) hp
  | pixel px py => exact absurd (.inr ⟨px, py, rfl⟩) hp
  | _ => rfl

/-- A non-fatal raise is the report alone (R252). -/
theorem raised_onlyChanges_nonfatal (s : State) {k : ErrKind} (hk : k.isFatal = false) :
    OnlyChanges (fun p => p = .err) s (raised k s) := by
  rw [raised_nonfatal k s hk]
  intro p hp
  cases p with
  | err => exact absurd rfl hp
  | _ => rfl

/-- A fatal raise is the report, the latch and the stop (R250). -/
theorem raised_onlyChanges_fatal (s : State) {k : ErrKind} (hk : k.isFatal = true) :
    OnlyChanges (fun p => p ∈ [.run, .errKind, .errAddr, .err]) s (raised k s) := by
  rw [raised_fatal k s hk]
  intro p hp
  cases p with
  | run | errKind | errAddr | err => exact absurd (by simp) hp
  | _ => rfl

/-- What an instruction that raises a non-fatal kind does: report it with the fetch address. -/
theorem effect_of_raises {i : Instr} {s : State} {k : ErrKind} (h : Raises s i k) (hk : k.isFatal = false) :
    Effect i s (fun p => p = .err) fun t => t.out.err = some (k, s.pc - 2) :=
  ⟨raised k s, exec_of_raises h, raised_onlyChanges_nonfatal s hk,
    congrArg CycleOut.err (raised_out k s)⟩

/-- Settles O27: `UNKNOWN` raises a non-fatal kind. -/
theorem unknownOnlyReports : Obligations.UnknownOnlyReports := by
  unfold Obligations.UnknownOnlyReports
  exact fun s => effect_of_raises .undefinedOpcode rfl

/-- Settles O48: each of the four raises a non-fatal kind before it moves anything. -/
theorem outOfRangeTransfersAreAbandoned : Obligations.OutOfRangeTransfersAreAbandoned := by
  unfold Obligations.OutOfRangeTransfersAreAbandoned
  exact fun i s h => effect_of_raises (.outOfBounds h) rfl

end Sys2Proof.Spec
end

section
/-! PROOF. Control transfer and skips (spec 41_control_flow.md R140 to R143, 42_skips.md R150 to R153). -/

namespace Sys2Proof.Machine

theorem exec_jpV0 (nnn : Addr12) (s : State) :
    exec (.jpV0 nnn) s = .next (s.setPc (zextByte (s.getV 0) + zextAddr nnn)) := rfl

theorem exec_seByte (x : Reg) (kk : Byte) (s : State) :
    exec (.seByte x kk) s = .next (s.skipIf (s.getV x == kk)) := rfl

theorem exec_sneByte (x : Reg) (kk : Byte) (s : State) :
    exec (.sneByte x kk) s = .next (s.skipIf (s.getV x != kk)) := rfl

theorem exec_seReg (x y : Reg) (s : State) : exec (.seReg x y) s = .next (s.skipIf (s.getV x == s.getV y)) := rfl

theorem exec_sneReg (x y : Reg) (s : State) : exec (.sneReg x y) s = .next (s.skipIf (s.getV x != s.getV y)) := rfl

/-- A byte keeps its value as a word (R92). -/
@[simp] theorem zextByte_toNat (b : Byte) : (zextByte b).toNat = b.toNat := BitVec.toNat_setWidth_of_le (by decide)

/-- The sum of `V[0]` and a 12-bit address does not wrap (R143). -/
theorem zextByte_add_zextAddr_toNat (b : Byte) (nnn : Addr12) :
    (zextByte b + zextAddr nnn).toNat = b.toNat + nnn.toNat := by
  have hb := b.isLt
  have hnnn := nnn.isLt
  rw [BitVec.toNat_add, zextByte_toNat, zextAddr_toNat]
  omega

/-- The entry a pop reads is the one under `sp` (R28). -/
theorem exec_ret_entry (s : State) (k : Fin 16) (h : s.sp.val = k.val + 1) :
    exec .ret s = .next ((s.setStack s.stack k.castSucc).setPc s.stack[k]) := by
  rw [exec_ret_pop s (by omega)]
  simp only [h, Nat.add_sub_cancel]
  rfl

end Sys2Proof.Machine

namespace Sys2Proof.Spec

open Sys2Proof.Machine

/-- Settles O29: `JP V0,addr` is `setPc` of a sum that cannot wrap. -/
theorem jumpV0AddsRegisterZero : Obligations.JumpV0AddsRegisterZero := by
  unfold Obligations.JumpV0AddsRegisterZero
  refine fun nnn s => ⟨_, exec_jpV0 nnn s, setPc_onlyChanges s _, ?_⟩
  simp only [State.setPc_pc, zextByte_add_zextAddr_toNat]

/-- The effect of a conditional skip, given what its condition means. -/
theorem effect_of_skipIf {i : Instr} {s : State} {c : Bool} {P : Prop} [Decidable P]
    (hexec : exec i s = .next (s.skipIf c)) (hc : c = true ↔ P) :
    Effect i s (fun p => p = .pc) fun t => t.pc.toNat = if P then (s.pc.toNat + 2) % 65536 else s.pc.toNat := by
  refine ⟨s.skipIf c, hexec, skipIf_onlyChanges s c, ?_⟩
  simp only [State.skipIf_pc, apply_ite BitVec.toNat, BitVec.toNat_add]
  exact if_congr hc rfl rfl

/-- Settles O35: the two skips compare the bytes as numbers. -/
theorem byteSkipsCompareAllBits : Obligations.ByteSkipsCompareAllBits := by
  unfold Obligations.ByteSkipsCompareAllBits
  refine fun x kk s => ⟨effect_of_skipIf (exec_seByte x kk s) ?_, ?_⟩
  · rw [beq_iff_eq, BitVec.toNat_inj]
  · simp only [← ite_not (p := (s.getV x).toNat = kk.toNat)]
    exact effect_of_skipIf (exec_sneByte x kk s) (by rw [bne_iff_ne, Ne, BitVec.toNat_inj])

/-- Settles O36: the two skips compare the registers as numbers. -/
theorem registerSkipsCompareAllBits : Obligations.RegisterSkipsCompareAllBits := by
  unfold Obligations.RegisterSkipsCompareAllBits
  refine fun x y s => ⟨effect_of_skipIf (exec_seReg x y s) ?_, ?_⟩
  · rw [beq_iff_eq, BitVec.toNat_inj]
  · simp only [← ite_not (p := (s.getV x).toNat = (s.getV y).toNat)]
    exact effect_of_skipIf (exec_sneReg x y s) (by rw [bne_iff_ne, Ne, BitVec.toNat_inj])

/-- Settles O30: with room, `CALL` is one stack write and one jump. -/
theorem callPushesReturnAddress : Obligations.CallPushesReturnAddress := by
  unfold Obligations.CallPushesReturnAddress
  intro nnn s k hk
  have hroom : s.sp.val < 16 := hk ▸ k.isLt
  refine ⟨_, exec_call_room nnn s hroom, ?_, ?_⟩
  · refine (setStack_onlyChanges s _ _).trans (setPc_onlyChanges _ _) ?_ (by simp)
    rintro p (rfl | ⟨j, rfl, hj⟩)
    · simp
    · have hjk : j = k := by_contra fun hne =>
        hj (Vector.getElem_set_ne _ _ fun h => hne (Fin.ext (h.symm.trans hk)))
      simp [hjk]
  · refine ⟨by rw [State.setPc_pc, zextAddr_toNat], rfl, ?_⟩
    rw [State.setPc_stack, State.setStack_stack]
    simp [hk]

/-- Settles O31: with an entry, `RET` lowers `sp` and jumps to the entry it uncovers. -/
theorem returnPopsIntoPc : Obligations.ReturnPopsIntoPc := by
  unfold Obligations.ReturnPopsIntoPc
  intro s k hk
  refine ⟨_, exec_ret_entry s k hk, ?_, rfl, rfl⟩
  refine (setStack_onlyChanges s _ _).trans (setPc_onlyChanges _ _) ?_ (by simp)
  rintro p (rfl | ⟨j, rfl, hj⟩)
  · simp
  · exact absurd rfl hj

/-- An effect says what the state an instruction answered is. -/
theorem Effect.of_exec {i : Instr} {s t : State} {c : Part → Prop} {post : State → Prop} (h : Effect i s c post)
    (hexec : exec i s = .next t) : OnlyChanges c s t ∧ post t := by
  obtain ⟨u, hu, hframe, hpost⟩ := h
  obtain rfl : u = t := Host.Outcome.next.inj (hu.symm.trans hexec)
  exact ⟨hframe, hpost⟩

/-- Settles O32: the entry `CALL` wrote is the one `RET` pops. -/
theorem callThenReturnRestoresPc : Obligations.CallThenReturnRestoresPc := by
  unfold Obligations.CallThenReturnRestoresPc
  intro nnn s t u hroom hcall husp hustack
  obtain ⟨-, -, hsp, hentry⟩ := (callPushesReturnAddress nnn s ⟨s.sp.val, hroom⟩ rfl).of_exec hcall
  obtain ⟨v, hret, -, hpc, hvsp⟩ := returnPopsIntoPc u ⟨s.sp.val, hroom⟩ (by rw [husp, hsp])
  exact ⟨v, hret, by rw [hpc, hustack, hentry], Fin.ext hvsp⟩

/-- Calls that fit on the stack all succeed, each taking one entry. -/
theorem callsReach_of_room (targets : List Addr12) (s : State) (h : s.sp.val + targets.length ≤ 16) :
    ∃ t, CallsReach targets s t ∧ t.sp.val = s.sp.val + targets.length ∧ t.run = s.run := by
  induction targets generalizing s with
  | nil => exact ⟨s, rfl, rfl, rfl⟩
  | cons a as ih =>
    rw [List.length_cons] at h
    obtain ⟨u, hcall, hframe, -, husp, -⟩ := callPushesReturnAddress a s ⟨s.sp.val, by omega⟩ rfl
    obtain ⟨t, hcalls, htsp, htrun⟩ := ih u (by omega)
    exact ⟨t, ⟨u, hcall, hcalls⟩, by rw [htsp, husp, List.length_cons]; omega,
      htrun.trans (hframe .run (by simp))⟩

/-- Settles O33: sixteen calls fill the stack, and the next one raises. -/
theorem sixteenCallsThenOverflow : Obligations.SixteenCallsThenOverflow := by
  unfold Obligations.SixteenCallsThenOverflow
  intro targets last s hlen hsp hrun
  obtain ⟨t, hcalls, htsp, htrun⟩ := callsReach_of_room targets s (by rw [hsp, hlen]; rfl)
  have hfull : t.sp.val = 16 := by rw [htsp, hsp, hlen]; rfl
  exact ⟨t, raised .stackOverflow t, hcalls, Fin.ext hfull, htrun.trans hrun,
    exec_of_raises (.stackOverflow last hfull), rfl, rfl, Fin.ext hfull⟩

end Sys2Proof.Spec
end

section
/-! PROOF. Arithmetic, logic, shifts, `RND` and the index instructions (spec 43_alu.md R164 to R173,
44_index_and_memory.md R180 to R182): one or two register writes, or one write of `I`, each with the number the rule
gives. -/

namespace Sys2Proof.Machine

/-! ### What each instruction answers -/

theorem exec_orReg (x y : Reg) (s : State) : exec (.orReg x y) s = .next (s.setV x (s.getV x ||| s.getV y)) := rfl

theorem exec_andReg (x y : Reg) (s : State) : exec (.andReg x y) s = .next (s.setV x (s.getV x &&& s.getV y)) := rfl

theorem exec_xorReg (x y : Reg) (s : State) : exec (.xorReg x y) s = .next (s.setV x (s.getV x ^^^ s.getV y)) := rfl

theorem exec_addReg (x y : Reg) (s : State) : exec (.addReg x y) s =
    .next ((s.setV x (s.getV x + s.getV y)).setV vf (flagByte (carryOf (s.getV x) (s.getV y)))) := rfl

theorem exec_subReg (x y : Reg) (s : State) : exec (.subReg x y) s =
    .next ((s.setV vf (flagByte (greaterThan (s.getV x) (s.getV y)))).setV x (s.getV x - s.getV y)) := rfl

theorem exec_subnReg (x y : Reg) (s : State) : exec (.subnReg x y) s =
    .next ((s.setV vf (flagByte (greaterThan (s.getV y) (s.getV x)))).setV x (s.getV y - s.getV x)) := rfl

theorem exec_shr (x : Reg) (s : State) : exec (.shr x) s =
    .next ((s.setV vf (flagByte (bitShiftedRight (s.getV x)))).setV x (s.getV x >>> 1)) := rfl

theorem exec_shl (x : Reg) (s : State) : exec (.shl x) s =
    .next ((s.setV vf (flagByte (bitShiftedLeft (s.getV x)))).setV x (s.getV x <<< 1)) := rfl

theorem exec_rnd (x : Reg) (kk : Byte) (s : State) : exec (.rnd x kk) s = .next (s.setV x (s.rnd &&& kk)) := rfl

theorem exec_ldI (nnn : Addr12) (s : State) : exec (.ldI nnn) s = .next (s.setI (zextAddr nnn)) := rfl

theorem exec_addI (x : Reg) (s : State) : exec (.addI x) s = .next (s.setI (s.i + zextByte (s.getV x))) := rfl

theorem exec_ldF (x : Reg) (s : State) :
    exec (.ldF x) s = .next (s.setI (glyphAddr fontBase fontGlyphBytes (s.getV x))) := rfl

/-! ### Flags and values as numbers (R173) -/

theorem flagByte_toNat (c : Bool) : (flagByte c).toNat = if c = true then 1 else 0 := by cases c <;> rfl

theorem flagByte_toNat_iff {c : Bool} {P : Prop} [Decidable P] (h : c = true ↔ P) :
    (flagByte c).toNat = if P then 1 else 0 := by
  rw [flagByte_toNat]
  exact if_congr h rfl rfl

/-- The byte of a bit of a number below 2 is that number. -/
theorem flagByte_toNat_bit {c : Bool} {n : Nat} (hn : n < 2) (h : c = decide (n = 1)) : (flagByte c).toNat = n := by
  rw [flagByte_toNat_iff (P := n = 1) (by simp [h])]
  split <;> omega

theorem shiftRight_toNat (p : Byte) : (p >>> 1).toNat = p.toNat / 2 := by
  rw [BitVec.toNat_ushiftRight, Nat.shiftRight_eq_div_pow, Nat.pow_one]

theorem shiftLeft_toNat (p : Byte) : (p <<< 1).toNat = 2 * p.toNat % 256 := by
  rw [BitVec.toNat_shiftLeft, Nat.shiftLeft_eq, Nat.mul_comm]

theorem bitShiftedRight_toNat (p : Byte) : (flagByte (bitShiftedRight p)).toNat = p.toNat % 2 :=
  flagByte_toNat_bit (Nat.mod_lt _ (by decide)) (by rw [bitShiftedRight, BitVec.getLsbD, Nat.testBit_zero])

theorem bitShiftedLeft_toNat (p : Byte) : (flagByte (bitShiftedLeft p)).toNat = p.toNat / 128 := by
  have hp := p.isLt
  refine flagByte_toNat_bit (by omega) ?_
  rw [bitShiftedLeft, BitVec.getLsbD, Nat.testBit_eq_decide_div_mod_eq, Nat.mod_eq_of_lt (by omega)]

theorem sub_toNat (p q : Byte) : (p - q).toNat = (p.toNat + 256 - q.toNat) % 256 := by
  rw [BitVec.toNat_sub]
  omega

end Sys2Proof.Machine

namespace Sys2Proof.Spec

open Sys2Proof.Machine

/-! ### One write -/

/-- Settles O38: each of the three is `setV` of a bitwise combination. -/
theorem logicIsBitwiseAndLeavesVF : Obligations.LogicIsBitwiseAndLeavesVF := by
  unfold Obligations.LogicIsBitwiseAndLeavesVF
  refine fun x y s => ⟨effect_of_setV (exec_orReg x y s) fun t h k _ => ?_,
    effect_of_setV (exec_andReg x y s) fun t h k _ => ?_, effect_of_setV (exec_xorReg x y s) fun t h k _ => ?_⟩
  · rw [h, BitVec.toNat_or, Nat.testBit_or]
  · rw [h, BitVec.toNat_and, Nat.testBit_and]
  · rw [h, BitVec.toNat_xor, Nat.testBit_xor]

/-- Settles O42: `RND` is `setV` of the masked draw. -/
theorem rndMasksTheDraw : Obligations.RndMasksTheDraw := by
  unfold Obligations.RndMasksTheDraw
  refine fun x kk s => effect_of_setV (exec_rnd x kk s) fun t h k _ => ?_
  rw [h, BitVec.toNat_and, Nat.testBit_and]

/-- The effect of an instruction that is one write of `I`. -/
theorem effect_of_setI {i : Instr} {s : State} {w : Word} {n : Nat} (hexec : exec i s = .next (s.setI w))
    (hw : w.toNat = n) : Effect i s (fun p => p = .i) fun t => t.i.toNat = n :=
  ⟨s.setI w, hexec, setI_onlyChanges s w, hw⟩

/-- Settles O44: each of the three is `setI` of the address the rule gives. -/
theorem indexInstructionsSetOnlyI : Obligations.IndexInstructionsSetOnlyI := by
  unfold Obligations.IndexInstructionsSetOnlyI
  refine fun nnn x s => ⟨effect_of_setI (exec_ldI nnn s) (zextAddr_toNat nnn), effect_of_setI (exec_addI x s) ?_,
    effect_of_setI (exec_ldF x s) (BitVec.toNat_ofNat ..)⟩
  rw [BitVec.toNat_add, zextByte_toNat]

/-! ### Two writes, of which the later wins (R160) -/

theorem setV_setV_onlyChanges (s : State) (x y : Reg) (b c : Byte) :
    OnlyChanges (fun p => p = .reg x ∨ p = .reg y) s ((s.setV x b).setV y c) :=
  (setV_onlyChanges s x b).trans (setV_onlyChanges _ y c) (fun _ => .inl) fun _ => .inr

/-- The effect of a result written after its flag: with `x = 15` the result stays. -/
theorem effect_of_flag_then_result {i : Instr} {s : State} {x : Reg} {b : Byte} {c : Bool} {n f : Nat}
    (hexec : exec i s = .next ((s.setV vf (flagByte c)).setV x b)) (hb : b.toNat = n) (hc : (flagByte c).toNat = f) :
    Effect i s (fun p => p = .reg x ∨ p = .reg vf) fun t =>
      (t.getV x).toNat = n ∧ (x ≠ vf → (t.getV vf).toNat = f) := by
  refine ⟨_, hexec, (setV_setV_onlyChanges s vf x _ b).mono fun _ => Or.symm, ?_, fun hx => ?_⟩
  · rw [State.getV_setV_self, hb]
  · rw [State.getV_setV_ne _ _ _ _ hx.symm, State.getV_setV_self, hc]

/-- Settles O39: the sum is written first and the carry after it. -/
theorem addWritesSumThenCarry : Obligations.AddWritesSumThenCarry := by
  unfold Obligations.AddWritesSumThenCarry
  refine fun x y s => ⟨_, exec_addReg x y s, setV_setV_onlyChanges s x vf _ _, fun hx => ?_, ?_⟩
  · rw [State.getV_setV_ne _ _ _ _ hx, State.getV_setV_self, BitVec.toNat_add]
  · rw [State.getV_setV_self]
    exact flagByte_toNat_iff decide_eq_true_iff

/-- Settles O40: the difference is written after its flag, in the one order of operands and in the other. -/
theorem subtractionFlagsStrictlyGreater : Obligations.SubtractionFlagsStrictlyGreater := by
  unfold Obligations.SubtractionFlagsStrictlyGreater
  exact fun x y s =>
    ⟨effect_of_flag_then_result (exec_subReg x y s) (sub_toNat ..) (flagByte_toNat_iff decide_eq_true_iff),
      effect_of_flag_then_result (exec_subnReg x y s) (sub_toNat ..) (flagByte_toNat_iff decide_eq_true_iff)⟩

/-- Settles O41: the shifted value is written after the bit shifted out. -/
theorem shiftsMoveVxByOnePlace : Obligations.ShiftsMoveVxByOnePlace := by
  unfold Obligations.ShiftsMoveVxByOnePlace
  exact fun x s =>
    ⟨effect_of_flag_then_result (exec_shr x s) (shiftRight_toNat _) (bitShiftedRight_toNat _),
      effect_of_flag_then_result (exec_shl x s) (shiftLeft_toNat _) (bitShiftedLeft_toNat _)⟩

end Sys2Proof.Spec
end

section
/-! PROOF. Memory (spec 20_memory.md R61 to R73): the two primitives, the canonical form, and the transfers of
44_index_and_memory.md R183 to R185 that are made of them. -/

namespace Sys2Proof.Machine

/-! ### Writing and reading back -/

/-- Byte `k` of a write in ascending order is read at `a + k`. -/
theorem Memory.read_writeAll_at (bytes : List Byte) (m : Memory) (a k : Nat) (hk : k < bytes.length) :
    some (Memory.read (Memory.writeAll m a bytes) (a + k)) = bytes[k]? := by
  rw [Memory.read_writeAll, if_pos (by omega), Nat.add_sub_cancel_left, List.getElem?_eq_getElem hk, Option.getD_some]

/-- `MemRead` raises exactly out of range (R66, R67). -/
theorem memRead_eq_none_iff (m : Memory) (addr n : Nat) : memRead m addr n = none ↔ n ≠ 0 ∧ 4096 < addr + n := by
  rw [memRead, ← outOfRange_iff]
  cases outOfRange addr n <;> simp

theorem memRead_some (m : Memory) (addr n : Nat) (bytes : List Byte) (h : memRead m addr n = some bytes) :
    bytes = (List.range n).map fun k => Memory.read m (addr + k) := by
  unfold memRead at h
  split at h
  · cases h
  · exact (Option.some.inj h).symm

/-- `MemWrite` raises exactly out of range (R66, R67). -/
theorem memWrite_eq_none_iff (m : Memory) (addr : Nat) (bytes : List Byte) :
    memWrite m addr bytes = none ↔ bytes ≠ [] ∧ 4096 < addr + bytes.length := by
  have hne : bytes ≠ [] ↔ bytes.length ≠ 0 := not_congr List.length_eq_zero_iff.symm
  rw [memWrite, hne, ← outOfRange_iff]
  cases outOfRange addr bytes.length <;> simp

/-! ### The canonical form is unique -/

/-- A canonical memory from `lo` lists no address below `lo`. -/
theorem Memory.lookup_of_lt (m : Memory) (lo a : Nat) (h : Memory.wfFrom lo m = true) (ha : a < lo) :
    Memory.lookup m a = none := by
  induction m generalizing lo with
  | nil => rfl
  | cons p rest ih =>
    obtain ⟨k, b⟩ := p
    obtain ⟨hk, -, -, hrest⟩ := (Memory.wfFrom_cons lo k b rest).1 h
    rw [Memory.lookup, if_neg (by omega)]
    exact ih (k + 1) hrest (by omega)

theorem Memory.read_of_lt (m : Memory) (lo a : Nat) (h : Memory.wfFrom lo m = true) (ha : a < lo) :
    Memory.read m a = resetByte a := by
  rw [Memory.read, Memory.lookup_of_lt m lo a h ha, Option.getD_none]

theorem Memory.wfFrom_nil (lo : Nat) : Memory.wfFrom lo [] = true := rfl

theorem Memory.read_cons_self (k : Nat) (b : Byte) (rest : Memory) : Memory.read ((k, b) :: rest) k = b := by
  simp [Memory.read, Memory.lookup]

theorem Memory.read_cons_ne (k a : Nat) (b : Byte) (rest : Memory) (h : k ≠ a) :
    Memory.read ((k, b) :: rest) a = Memory.read rest a := by
  simp [Memory.read, Memory.lookup, h]

/-- Two canonical memories that read alike start at the same place: a listed byte differs from reset (log entry 18). -/
theorem Memory.start_le {m m' : Memory} {lo k k' : Nat} {b : Byte} (h : Memory.wfFrom lo ((k, b) :: m) = true)
    (h' : Memory.wfFrom k' m' = true) (hread : ∀ a, Memory.read ((k, b) :: m) a = Memory.read m' a) : k' ≤ k := by
  obtain ⟨-, -, hb, -⟩ := (Memory.wfFrom_cons lo k b m).1 h
  by_contra hk
  exact hb (by rw [← Memory.read_cons_self k b m, hread k, Memory.read_of_lt m' k' k h' (by omega)])

theorem Memory.eq_of_read_eq (m m' : Memory) (lo : Nat) (h : Memory.wfFrom lo m = true)
    (h' : Memory.wfFrom lo m' = true) (hread : ∀ a, Memory.read m a = Memory.read m' a) : m = m' := by
  induction m generalizing lo m' with
  | nil =>
    cases m' with
    | nil => rfl
    | cons p' rest' =>
      have := Memory.start_le (k' := p'.1 + 1) h' (Memory.wfFrom_nil _) fun a => (hread a).symm
      omega
  | cons p rest ih =>
    obtain ⟨k, b⟩ := p
    cases m' with
    | nil =>
      have := Memory.start_le (k' := k + 1) h (Memory.wfFrom_nil _) hread
      omega
    | cons p' rest' =>
      obtain ⟨k', b'⟩ := p'
      obtain ⟨-, hsize, hb, hrest⟩ := (Memory.wfFrom_cons lo k b rest).1 h
      obtain ⟨-, hsize', hb', hrest'⟩ := (Memory.wfFrom_cons lo k' b' rest').1 h'
      have hle : k' ≤ k := Memory.start_le h ((Memory.wfFrom_cons k' k' b' rest').2 ⟨le_rfl, hsize', hb', hrest'⟩) hread
      have hge : k ≤ k' := Memory.start_le h' ((Memory.wfFrom_cons k k b rest).2 ⟨le_rfl, hsize, hb, hrest⟩)
        fun a => (hread a).symm
      obtain rfl : k = k' := by omega
      obtain rfl : b = b' := by rw [← Memory.read_cons_self k b rest, hread k, Memory.read_cons_self]
      rw [ih rest' (k + 1) hrest hrest' fun a => ?_]
      by_cases ha : k = a
      · subst ha
        rw [Memory.read_of_lt rest _ k hrest (by omega), Memory.read_of_lt rest' _ k hrest' (by omega)]
      · rw [← Memory.read_cons_ne k a b rest ha, hread a, Memory.read_cons_ne k a b rest' ha]

/-- The digits of a byte, hundreds first (R183). -/
theorem bcdDigits_toNat (v : Byte) :
    (bcdDigits v).map BitVec.toNat = [v.toNat / 100, v.toNat / 10 % 10, v.toNat % 10] := by
  have hv := v.isLt
  simp (disch := omega) only [bcdDigits, List.map_cons, List.map_nil, BitVec.toNat_ofNat, Nat.mod_eq_of_lt]

theorem exec_stRegs_some {x : Reg} {s t : State} (hr : s.i.toNat + x.val + 1 ≤ 4096)
    (h : exec (.stRegs x) s = .next t) : t = s.setMem (Memory.writeAll s.mem s.i.toNat (s.regsTo x)) :=
  Host.Outcome.next.inj (h.symm.trans (exec_stRegs_in x s hr))

/-- `LD [I],Vx` in range: register `k` is read at `I + k` (R184). -/
theorem read_writeAll_regsTo (s : State) (x k : Reg) (hk : k.val ≤ x.val) :
    Memory.read (Memory.writeAll s.mem s.i.toNat (s.regsTo x)) (s.i.toNat + k.val) = s.getV k := by
  refine Option.some.inj ((Memory.read_writeAll_at _ _ _ _ ?_).trans (regsTo_getElem s x k hk))
  rw [regsTo_length]
  omega

end Sys2Proof.Machine

namespace Sys2Proof.Spec

open Sys2Proof.Machine

/-- Settles O23: the range check comes first, and what passes it is `writeAll` or the listing of the range. -/
theorem memoryPrimitivesCheckThenMove : Obligations.MemoryPrimitivesCheckThenMove := by
  unfold Obligations.MemoryPrimitivesCheckThenMove
  refine ⟨fun m addr n => ⟨memRead_eq_none_iff m addr n, fun bytes h => ?_⟩,
    fun m addr bytes => ⟨memWrite_eq_none_iff m addr bytes, fun m' h => ?_⟩⟩
  · obtain rfl := memRead_some m addr n bytes h
    exact ⟨by simp, fun k hk => by simp [hk]⟩
  · obtain ⟨-, rfl⟩ := memWrite_some m m' addr bytes h
    exact ⟨fun k hk => Memory.read_writeAll_at bytes m addr k hk,
      fun a ha => Memory.read_writeAll_outside bytes m addr a ha, memWrite_wf m _ addr bytes h⟩

/-- Settles O24: canonical memories that read alike list the same bytes, first to last. -/
theorem equalMemoriesAreEqualData : Obligations.EqualMemoriesAreEqualData := by
  unfold Obligations.EqualMemoriesAreEqualData
  exact fun m m' h h' => Memory.eq_of_read_eq m m' 0 h h'

/-- Settles O25: the two bytes fetched are the registers stored there. -/
theorem storesAreFetchedAtOnce : Obligations.StoresAreFetchedAtOnce := by
  unfold Obligations.StoresAreFetchedAtOnce
  intro s t x j k hr hk hkx hexec hpc
  obtain rfl := exec_stRegs_some hr hexec
  rw [fetch_in_range _ (by omega), hpc, State.setMem_mem, read_writeAll_regsTo s x j (by omega),
    show s.i.toNat + j.val + 1 = s.i.toNat + k.val by omega, read_writeAll_regsTo s x k hkx, ← wordOfBytes_toNat,
    BitVec.ofNat_toNat, BitVec.setWidth_eq]

/-- A write to memory changes the range it covers alone. -/
theorem writeAll_onlyChanges (s : State) (a : Nat) (bytes : List Byte) :
    OnlyChanges (fun p => ∃ c, p = .mem c ∧ a ≤ c ∧ c < a + bytes.length) s
      (s.setMem (Memory.writeAll s.mem a bytes)) := by
  refine (setMem_onlyChanges s _).mono ?_
  rintro p ⟨c, rfl, hc⟩
  have hin : ¬ (c < a ∨ a + bytes.length ≤ c) := fun h => hc (Memory.read_writeAll_outside bytes s.mem a c h)
  exact ⟨c, rfl, by omega, by omega⟩

/-- Settles O45: the three bytes written are the decimal digits. -/
theorem bcdStoresThreeDigits : Obligations.BcdStoresThreeDigits := by
  unfold Obligations.BcdStoresThreeDigits
  intro x s hr
  refine ⟨_, exec_ldB_in x s hr, writeAll_onlyChanges s s.i.toNat (bcdDigits (s.getV x)), ?_⟩
  have digit (k : Nat) (hk : k < 3) :
      some (Memory.read (Memory.writeAll s.mem s.i.toNat (bcdDigits (s.getV x))) (s.i.toNat + k)).toNat =
        [(s.getV x).toNat / 100, (s.getV x).toNat / 10 % 10, (s.getV x).toNat % 10][k]? := by
    rw [← bcdDigits_toNat, List.getElem?_map, ← Memory.read_writeAll_at _ _ _ _ hk, Option.map_some]
  have hv := (s.getV x).isLt
  have h0 := Option.some.inj (digit 0 (by decide))
  have h1 := Option.some.inj (digit 1 (by decide))
  have h2 := Option.some.inj (digit 2 (by decide))
  simp only [State.setMem_mem, h0, h1, h2]
  omega

/-- Settles O46: the bytes written are the registers, in order. -/
theorem blockStoreCopiesRegisters : Obligations.BlockStoreCopiesRegisters := by
  unfold Obligations.BlockStoreCopiesRegisters
  intro x s hr
  refine ⟨_, exec_stRegs_in x s hr, (writeAll_onlyChanges s _ _).mono ?_, read_writeAll_regsTo s x⟩
  rintro p ⟨a, rfl, ha, hlt⟩
  rw [regsTo_length] at hlt
  exact ⟨a, rfl, ha, hlt⟩

/-- Settles O47: register `k` takes byte `k` of the range while the list of bytes lasts. -/
theorem blockLoadCopiesMemory : Obligations.BlockLoadCopiesMemory := by
  unfold Obligations.BlockLoadCopiesMemory
  intro x s hr
  refine ⟨_, exec_ldRegs_in x s hr, (loadV_onlyChanges s _).mono ?_, fun k hk => ?_⟩
  · rintro p ⟨r, rfl, hne⟩
    refine ⟨r, rfl, by_contra fun hr => hne ?_⟩
    rw [State.getV_loadV, List.getElem?_eq_none (by simp; omega), Option.getD_none]
  · rw [State.getV_loadV, List.getElem?_map, List.getElem?_range (by omega)]
    rfl

end Sys2Proof.Spec
end

section
/-! PROOF. `DRW` (spec 45_display.md R191 to R196): the pixels the plotting toggles are the set the statement names, and
its collision flag is that one of them was lit. The second draw then follows from the first. -/

namespace Sys2Proof.Machine

open Sys2Proof.Spec

theorem spriteRows_length (s : State) (n : Nat) : (spriteRows s n).length = n := by simp [spriteRows]

/-- The pixels the rows of the sprite at `I` hit are those the statements call drawn. -/
theorem spriteHits_iff_drawn (s : State) (x y : Reg) (n px py : Nat) :
    SpriteHits (spriteRows s n) (s.getV x).toNat (s.getV y).toNat px py ↔ Drawn s x y n px py := by
  simp only [SpriteHits, Drawn, spriteRows_length]
  refine exists₂_congr fun r b => ⟨?_, ?_⟩
  · rintro ⟨hr, hb, hbit, hx, hy⟩
    exact ⟨hr, hb, by simpa [spriteRows, spriteBit] using hbit, hx.symm, hy.symm⟩
  · rintro ⟨hr, hb, hbit, hx, hy⟩
    exact ⟨hr, hb, by simpa [spriteRows, spriteBit] using hbit, hx.symm, hy.symm⟩

end Sys2Proof.Machine

namespace Sys2Proof.Spec

open Sys2Proof.Machine

/-- Settles O50: drawing is the sprite's plot, then the flag write. -/
theorem drawXorsTheAddressedPixels : Obligations.DrawXorsTheAddressedPixels := by
  unfold Obligations.DrawXorsTheAddressedPixels
  intro x y n s hr
  have hlen : (spriteRows s n.val).length ≤ 31 := by rw [spriteRows_length]; omega
  obtain ⟨hon, hoff, hhit⟩ := plotRows_spec (spriteRows s n.val) (s.getV x).toNat (s.getV y).toNat hlen
    { fb := s.fb, hit := false }
  simp only [spriteHits_iff_drawn, Bool.false_eq_true, false_or] at hon hoff hhit
  refine ⟨_, exec_drw_in x y n s hr, ?_, rfl, hon, hoff, fun hlit => ?_, fun hunlit => ?_⟩
  · exact (drawSprite_onlyChanges s _ _ _).trans (setV_onlyChanges _ vf _)
      (fun p hp => hp.elim .inl fun hp => .inr (.inr hp)) fun p hp => .inr (.inl hp)
  · rw [State.getV_setV_self, State.drawSprite_hit, hhit.2 hlit]
    rfl
  · have hno : ¬ ∃ px py, Drawn s x y n.val px py ∧ pixelAt s.fb px py = true := fun ⟨px, py, hd, hl⟩ =>
      Bool.false_ne_true ((hunlit px py hd).symm.trans hl)
    rw [State.getV_setV_self, State.drawSprite_hit, Bool.eq_false_iff.2 fun h => hno (hhit.1 h)]
    rfl

/-- What is drawn depends on the sprite's bytes, `I` and the two coordinates. -/
theorem Drawn.congr {s t : State} {x y : Reg} {n px py : Nat} (h : Drawn s x y n px py)
    (hmem : ∀ a, Memory.read t.mem a = Memory.read s.mem a) (hi : t.i = s.i) (hx : t.getV x = s.getV x)
    (hy : t.getV y = s.getV y) : Drawn t x y n px py := by
  simpa only [Drawn, spriteBit, hmem, hi, hx, hy] using h

/-- Settles O51: the second draw toggles the same pixels back, and finds lit the ones the first found off. -/
theorem drawingTwiceRestoresTheFrame : Obligations.DrawingTwiceRestoresTheFrame := by
  unfold Obligations.DrawingTwiceRestoresTheFrame
  intro x y n s t hr hdraw hx hy
  obtain ⟨hframe, -, hon, hoff, -, -⟩ := (drawXorsTheAddressedPixels x y n s hr).of_exec hdraw
  have hmem (a : Nat) : Memory.read t.mem a = Memory.read s.mem a := hframe (.mem a) (by simp)
  have hi : t.i = s.i := hframe .i (by simp)
  have hdrawn (px py : Nat) : Drawn t x y n.val px py ↔ Drawn s x y n.val px py :=
    ⟨fun h => h.congr (fun a => (hmem a).symm) hi.symm hx.symm hy.symm, fun h => h.congr hmem hi hx hy⟩
  obtain ⟨u, hu, -, -, hon', hoff', hone, hzero⟩ := drawXorsTheAddressedPixels x y n t (by rw [hi]; exact hr)
  simp only [hdrawn] at hon' hoff' hone hzero
  refine ⟨u, hu, fun px py => ?_, fun hvf => by_contra fun hlit => ?_, ?_⟩
  · by_cases hd : Drawn s x y n.val px py
    · rw [hon' px py hd, hon px py hd, Bool.not_not]
    · rw [hoff' px py hd, hoff px py hd]
  · have hzero : u.getV vf = 0 := hzero fun px py hd => by
      have hwas : s.getPixel px py = true := Bool.of_not_eq_false fun hoff => hlit ⟨px, py, hd, hoff⟩
      rw [hon px py hd, hwas, Bool.not_true]
    rw [hvf] at hzero
    exact absurd hzero (by decide)
  · rintro ⟨px, py, hd, hunlit⟩
    exact hone ⟨px, py, hd, by rw [hon px py hd, hunlit, Bool.not_false]⟩

end Sys2Proof.Spec
end

section
/-! PROOF. The key instructions (spec 47_keypad.md R222 to R225): the two cases of the statements are the two answers of
`readKey`. -/

namespace Sys2Proof.Spec

open Sys2Proof.Machine

theorem NextKey.readKeyFrom_eq {s : State} {k : Keycode} {rest : List KeySymbol} (h : NextKey s k rest) :
    readKeyFrom keymap s.keyq = (some k, rest) := by
  obtain ⟨front, u, hq, hfront, hu⟩ := h
  rw [hq, readKeyFrom_mapped keymap front rest u k hfront hu]

theorem NoKey.readKeyFrom_eq {s : State} (h : NoKey s) : readKeyFrom keymap s.keyq = (none, []) :=
  readKeyFrom_unmapped keymap s.keyq h

/-- Either no symbol of the queue has a keycode or `readKey` finds one. -/
theorem noKey_or_nextKey (s : State) : NoKey s ∨ ∃ k rest, NextKey s k rest := by
  obtain ⟨hnone, -⟩ | ⟨front, u, k, rest, hq, hfront, hu, -⟩ := readKeyFrom_spec keymap s.keyq
  · exact .inl hnone
  · exact .inr ⟨k, rest, front, u, hq, hfront, hu⟩

/-- `readKey` has one answer. -/
theorem NextKey.unique {s : State} {k k' : Keycode} {rest rest' : List KeySymbol} (h : NextKey s k rest)
    (h' : NextKey s k' rest') : k = k' ∧ rest = rest' := by
  have := h.readKeyFrom_eq.symm.trans h'.readKeyFrom_eq
  simpa using this

theorem NextKey.not_noKey {s : State} {k : Keycode} {rest : List KeySymbol} (h : NextKey s k rest) : ¬ NoKey s := by
  intro hno
  cases h.readKeyFrom_eq.symm.trans hno.readKeyFrom_eq

end Sys2Proof.Spec

namespace Sys2Proof.Machine

@[simp] theorem zextKey_toNat (k : Keycode) : (zextKey k).toNat = k.toNat := BitVec.toNat_setWidth_of_le (by decide)

theorem zextKey_beq_iff (k : Keycode) (b : Byte) : (zextKey k == b) = true ↔ k.toNat = b.toNat := by
  rw [beq_iff_eq, ← BitVec.toNat_inj, zextKey_toNat]

theorem zextKey_bne_iff (k : Keycode) (b : Byte) : (zextKey k != b) = true ↔ k.toNat ≠ b.toNat := by
  rw [bne_iff_ne, Ne, ← BitVec.toNat_inj, zextKey_toNat]

end Sys2Proof.Machine

namespace Sys2Proof.Spec

open Sys2Proof.Machine

theorem setKeyq_skipIf_onlyChanges (s : State) (q : List KeySymbol) (c : Bool) :
    OnlyChanges (fun p => p = .pc ∨ p = .keyq) s ((s.setKeyq q).skipIf c) :=
  (setKeyq_onlyChanges s q).trans (skipIf_onlyChanges _ c) (fun _ => .inr) fun _ => .inl

/-- Settles O53: `LD K,Vx` writes the register or `pc`, after the queue `readKey` left; waiting, the cycle's advance of
`pc` and the instruction's step back cancel. -/
theorem keyWaitTakesAKeyOrRewinds : Obligations.KeyWaitTakesAKeyOrRewinds := by
  unfold Obligations.KeyWaitTakesAKeyOrRewinds
  refine ⟨fun x s => ⟨fun k rest hkey => ?_, fun hno => ?_⟩, fun x s t hnext hno hstep => ?_⟩
  · refine ⟨_, exec_ldK_key x s k rest hkey.readKeyFrom_eq, ?_, ?_, rfl⟩
    · exact (setKeyq_onlyChanges s rest).trans (setV_onlyChanges _ x _) (fun _ => .inr) fun _ => .inl
    · rw [State.getV_setV_self, zextKey_toNat]
  · refine ⟨_, exec_ldK_none x s [] hno.readKeyFrom_eq, ?_, rfl, rfl⟩
    exact (setKeyq_onlyChanges s []).trans (setPc_onlyChanges _ _) (fun _ => .inr) fun _ => .inl
  · obtain rfl := step_eq_endCycle hnext hstep (exec_ldK_none x _ [] hno.readKeyFrom_eq)
    obtain ⟨hrun, -, -⟩ := hnext
    refine ⟨?_, ?_, ?_, ?_⟩
    · rw [State.endCycle_pc, State.setPc_pc, dispatchState_pc, BitVec.add_sub_cancel]
    · rw [State.endCycle_dt, State.setPc_dt, State.setKeyq_dt, dispatchState_dt, decTimer_toNat]
    · rw [State.endCycle_st, State.setPc_st, State.setKeyq_st, dispatchState_st, decTimer_toNat]
    · rw [State.endCycle_run, State.setPc_run, State.setKeyq_run, dispatchState_run, hrun]

/-- Settles O54: both skips leave the queue `readKey` left and test the key it found, `SKNP` skipping without one. -/
theorem keySkipsConsumeAndCompare : Obligations.KeySkipsConsumeAndCompare := by
  unfold Obligations.KeySkipsConsumeAndCompare
  refine fun x s => ⟨fun k rest hkey => ⟨?_, ?_⟩, fun hno => ⟨?_, ?_⟩⟩
  · refine ⟨_, exec_skp_key x s k rest hkey.readKeyFrom_eq, setKeyq_skipIf_onlyChanges s rest _,
      State.skipIf_keyq _ _, ?_⟩
    rw [State.skipIf_pc]
    exact if_congr (zextKey_beq_iff k _) rfl rfl
  · refine ⟨_, exec_sknp_key x s k rest hkey.readKeyFrom_eq, setKeyq_skipIf_onlyChanges s rest _,
      State.skipIf_keyq _ _, ?_⟩
    rw [State.skipIf_pc]
    exact (if_congr (zextKey_bne_iff k _) rfl rfl).trans (ite_not ..)
  · exact ⟨_, exec_skp_none x s [] hno.readKeyFrom_eq, setKeyq_onlyChanges s [], rfl⟩
  · exact ⟨_, exec_sknp_none x s [] hno.readKeyFrom_eq, setKeyq_skipIf_onlyChanges s [] true, rfl, rfl⟩

end Sys2Proof.Spec
end

section
/-! PROOF. What `exec` can do, said once as a relation with one constructor per case of an instruction, and what every
instruction leaves unchanged (spec 10_state.md R23 to R37), read off it. -/

namespace Sys2Proof.Machine

open Sys2Proof.Spec

/-- The states an instruction can answer: what it completes to in each of its cases, or what its raise leaves. -/
inductive Answers (s : State) : Instr → State → Prop
  | cls : Answers s .cls s.clearFrame
  | ret (k : Fin 16) (h : s.sp.val = k.val + 1) :
      Answers s .ret ((s.setStack s.stack k.castSucc).setPc s.stack[k])
  | sys (nnn : Addr12) : Answers s (.sys nnn) s
  | jp (nnn : Addr12) : Answers s (.jp nnn) (s.setPc (zextAddr nnn))
  | call (nnn : Addr12) (h : s.sp.val < 16) :
      Answers s (.call nnn) ((s.setStack (s.stack.set s.sp.val s.pc h) ⟨s.sp.val + 1, by omega⟩).setPc (zextAddr nnn))
  | seByte (x : Reg) (kk : Byte) : Answers s (.seByte x kk) (s.skipIf (s.getV x == kk))
  | sneByte (x : Reg) (kk : Byte) : Answers s (.sneByte x kk) (s.skipIf (s.getV x != kk))
  | seReg (x y : Reg) : Answers s (.seReg x y) (s.skipIf (s.getV x == s.getV y))
  | sneReg (x y : Reg) : Answers s (.sneReg x y) (s.skipIf (s.getV x != s.getV y))
  | ldByte (x : Reg) (kk : Byte) : Answers s (.ldByte x kk) (s.setV x kk)
  | addByte (x : Reg) (kk : Byte) : Answers s (.addByte x kk) (s.setV x (s.getV x + kk))
  | ldReg (x y : Reg) : Answers s (.ldReg x y) (s.setV x (s.getV y))
  | orReg (x y : Reg) : Answers s (.orReg x y) (s.setV x (s.getV x ||| s.getV y))
  | andReg (x y : Reg) : Answers s (.andReg x y) (s.setV x (s.getV x &&& s.getV y))
  | xorReg (x y : Reg) : Answers s (.xorReg x y) (s.setV x (s.getV x ^^^ s.getV y))
  | addReg (x y : Reg) : Answers s (.addReg x y)
      ((s.setV x (s.getV x + s.getV y)).setV vf (flagByte (carryOf (s.getV x) (s.getV y))))
  | subReg (x y : Reg) : Answers s (.subReg x y)
      ((s.setV vf (flagByte (greaterThan (s.getV x) (s.getV y)))).setV x (s.getV x - s.getV y))
  | shr (x : Reg) : Answers s (.shr x) ((s.setV vf (flagByte (bitShiftedRight (s.getV x)))).setV x (s.getV x >>> 1))
  | subnReg (x y : Reg) : Answers s (.subnReg x y)
      ((s.setV vf (flagByte (greaterThan (s.getV y) (s.getV x)))).setV x (s.getV y - s.getV x))
  | shl (x : Reg) : Answers s (.shl x) ((s.setV vf (flagByte (bitShiftedLeft (s.getV x)))).setV x (s.getV x <<< 1))
  | ldI (nnn : Addr12) : Answers s (.ldI nnn) (s.setI (zextAddr nnn))
  | jpV0 (nnn : Addr12) : Answers s (.jpV0 nnn) (s.setPc (zextByte (s.getV 0) + zextAddr nnn))
  | rnd (x : Reg) (kk : Byte) : Answers s (.rnd x kk) (s.setV x (s.rnd &&& kk))
  | drw (x y : Reg) (n : Nibble) (h : n.val = 0 ∨ s.i.toNat + n.val ≤ 4096) : Answers s (.drw x y n)
      ((s.drawSprite (spriteRows s n.val) (s.getV x).toNat (s.getV y).toNat).2.setV vf
        (flagByte (s.drawSprite (spriteRows s n.val) (s.getV x).toNat (s.getV y).toNat).1))
  | skpKey (x : Reg) {k : Keycode} {rest : List KeySymbol} (h : NextKey s k rest) :
      Answers s (.skp x) ((s.setKeyq rest).skipIf (zextKey k == s.getV x))
  | skpNone (x : Reg) (h : NoKey s) : Answers s (.skp x) (s.setKeyq [])
  | sknpKey (x : Reg) {k : Keycode} {rest : List KeySymbol} (h : NextKey s k rest) :
      Answers s (.sknp x) ((s.setKeyq rest).skipIf (zextKey k != s.getV x))
  | sknpNone (x : Reg) (h : NoKey s) : Answers s (.sknp x) ((s.setKeyq []).skipIf true)
  | ldVxDt (x : Reg) : Answers s (.ldVxDt x) (s.setV x s.dt)
  | ldKKey (x : Reg) {k : Keycode} {rest : List KeySymbol} (h : NextKey s k rest) :
      Answers s (.ldK x) ((s.setKeyq rest).setV x (zextKey k))
  | ldKNone (x : Reg) (h : NoKey s) : Answers s (.ldK x) ((s.setKeyq []).setPc (s.pc - 2))
  | ldDt (x : Reg) : Answers s (.ldDt x) (s.setDt (s.getV x))
  | ldSt (x : Reg) : Answers s (.ldSt x) (s.setSt (s.getV x))
  | addI (x : Reg) : Answers s (.addI x) (s.setI (s.i + zextByte (s.getV x)))
  | ldF (x : Reg) : Answers s (.ldF x) (s.setI (glyphAddr fontBase fontGlyphBytes (s.getV x)))
  | ldB (x : Reg) (h : s.i.toNat + 3 ≤ 4096) :
      Answers s (.ldB x) (s.setMem (Memory.writeAll s.mem s.i.toNat (bcdDigits (s.getV x))))
  | stRegs (x : Reg) (h : s.i.toNat + x.val + 1 ≤ 4096) :
      Answers s (.stRegs x) (s.setMem (Memory.writeAll s.mem s.i.toNat (s.regsTo x)))
  | ldRegs (x : Reg) (h : s.i.toNat + x.val + 1 ≤ 4096) : Answers s (.ldRegs x)
      (s.loadV ((List.range (x.val + 1)).map fun k => Memory.read s.mem (s.i.toNat + k)))
  | raise {i : Instr} {k : ErrKind} (h : Raises s i k) : Answers s i (raised k s)

/-- An instruction whose range may be out of bounds raises there and completes elsewhere. -/
theorem exec_answers_of_range {i : Instr} {s t : State}
    (hin : ¬ TransferOutOfRange s i → exec i s = .next t ∧ Answers s i t) :
    ∃ t, exec i s = .next t ∧ Answers s i t := by
  by_cases h : TransferOutOfRange s i
  · exact ⟨_, exec_transferOutOfRange h, .raise (.outOfBounds h)⟩
  · exact ⟨t, hin h⟩

/-- Every instruction answers, and as the relation says. -/
theorem exec_answers (i : Instr) (s : State) : ∃ t, exec i s = .next t ∧ Answers s i t := by
  cases i with
  | ret =>
    by_cases h : s.sp.val = 0
    · exact ⟨_, exec_ret_empty s h, .raise (.stackUnderflow h)⟩
    · have hk : s.sp.val = (⟨s.sp.val - 1, by omega⟩ : Fin 16).val + 1 := by simp only; omega
      exact ⟨_, exec_ret_entry s _ hk, .ret _ hk⟩
  | call nnn =>
    by_cases h : s.sp.val < 16
    · exact ⟨_, exec_call_room nnn s h, .call nnn h⟩
    · exact ⟨_, exec_call_full nnn s (by omega), .raise (.stackOverflow nnn (by omega))⟩
  | drw x y n =>
    have hr (h : ¬ TransferOutOfRange s (.drw x y n)) : n.val = 0 ∨ s.i.toNat + n.val ≤ 4096 := by
      simp only [TransferOutOfRange] at h
      omega
    exact exec_answers_of_range fun h => ⟨exec_drw_in x y n s (hr h), .drw x y n (hr h)⟩
  | ldB x => exact exec_answers_of_range fun h => ⟨exec_ldB_in x s (Nat.le_of_not_lt h), .ldB x (Nat.le_of_not_lt h)⟩
  | stRegs x =>
    exact exec_answers_of_range fun h => ⟨exec_stRegs_in x s (Nat.le_of_not_lt h), .stRegs x (Nat.le_of_not_lt h)⟩
  | ldRegs x =>
    exact exec_answers_of_range fun h => ⟨exec_ldRegs_in x s (Nat.le_of_not_lt h), .ldRegs x (Nat.le_of_not_lt h)⟩
  | skp x =>
    obtain hno | ⟨k, rest, hkey⟩ := noKey_or_nextKey s
    · exact ⟨_, exec_skp_none x s [] hno.readKeyFrom_eq, .skpNone x hno⟩
    · exact ⟨_, exec_skp_key x s k rest hkey.readKeyFrom_eq, .skpKey x hkey⟩
  | sknp x =>
    obtain hno | ⟨k, rest, hkey⟩ := noKey_or_nextKey s
    · exact ⟨_, exec_sknp_none x s [] hno.readKeyFrom_eq, .sknpNone x hno⟩
    · exact ⟨_, exec_sknp_key x s k rest hkey.readKeyFrom_eq, .sknpKey x hkey⟩
  | ldK x =>
    obtain hno | ⟨k, rest, hkey⟩ := noKey_or_nextKey s
    · exact ⟨_, exec_ldK_none x s [] hno.readKeyFrom_eq, .ldKNone x hno⟩
    · exact ⟨_, exec_ldK_key x s k rest hkey.readKeyFrom_eq, .ldKKey x hkey⟩
  | unknown => exact ⟨_, exec_of_raises .undefinedOpcode, .raise .undefinedOpcode⟩
  | _ => exact ⟨_, rfl, by constructor⟩

theorem Answers.of_exec {i : Instr} {s t : State} (h : exec i s = .next t) : Answers s i t := by
  obtain ⟨u, hu, hans⟩ := exec_answers i s
  obtain rfl : u = t := Host.Outcome.next.inj (hu.symm.trans h)
  exact hans

/-! ### What each instruction leaves unchanged -/

section unchanged
variable {i : Instr} {s t : State} (h : Answers s i t)
include h

theorem Answers.i_eq (hi : ∀ nnn x, i ≠ .ldI nnn ∧ i ≠ .addI x ∧ i ≠ .ldF x) : t.i = s.i := by
  cases h with
  | ldI nnn => exact absurd rfl (hi nnn 0).1
  | addI x => exact absurd rfl (hi 0 x).2.1
  | ldF x => exact absurd rfl (hi 0 x).2.2
  | _ => simp

theorem Answers.dt_eq (hi : ∀ x, i ≠ .ldDt x) : t.dt = s.dt := by
  cases h with
  | ldDt x => exact absurd rfl (hi x)
  | _ => simp

theorem Answers.st_eq (hi : ∀ x, i ≠ .ldSt x) : t.st = s.st := by
  cases h with
  | ldSt x => exact absurd rfl (hi x)
  | _ => simp

theorem Answers.stack_eq (hi : ∀ nnn, i ≠ .call nnn) : t.stack = s.stack := by
  cases h with
  | call nnn => exact absurd rfl (hi nnn)
  | _ => simp

theorem Answers.sp_eq (hi : ∀ nnn, i ≠ .call nnn ∧ i ≠ .ret) : t.sp = s.sp := by
  cases h with
  | call nnn => exact absurd rfl (hi nnn).1
  | ret => exact absurd rfl (hi 0).2
  | _ => simp

theorem Answers.mem_eq (hi : ∀ x, i ≠ .ldB x ∧ i ≠ .stRegs x) : t.mem = s.mem := by
  cases h with
  | ldB x => exact absurd rfl (hi x).1
  | stRegs x => exact absurd rfl (hi x).2
  | _ => simp

theorem Answers.frame_eq (hi : ∀ x y n, i ≠ .cls ∧ i ≠ .drw x y n) : t.fb = s.fb ∧ t.dirty = s.dirty := by
  cases h with
  | cls => exact absurd rfl (hi 0 0 0).1
  | drw x y n => exact absurd rfl (hi x y n).2
  | _ => simp

theorem Answers.keyq_eq (hi : ∀ x, i ≠ .ldK x ∧ i ≠ .skp x ∧ i ≠ .sknp x) : t.keyq = s.keyq := by
  cases h with
  | ldKKey x | ldKNone x => exact absurd rfl (hi x).1
  | skpKey x | skpNone x => exact absurd rfl (hi x).2.1
  | sknpKey x | sknpNone x => exact absurd rfl (hi x).2.2
  | _ => simp

theorem Answers.own_eq :
    t.rnd = s.rnd ∧ t.cycles = s.cycles ∧ t.out.present = s.out.present ∧ t.out.buzz = s.out.buzz := by
  cases h <;> simp

/-- Only a fatal raise touches the run state and the latch (R250, R252). -/
theorem Answers.fatal_or_latch_eq :
    (∃ k, k.isFatal = true ∧ Raises s i k ∧ t = raised k s) ∨
      (t.run = s.run ∧ t.errKind = s.errKind ∧ t.errAddr = s.errAddr) := by
  cases h with
  | @raise _ k hr =>
    cases hk : k.isFatal with
    | true => exact .inl ⟨k, hk, hr, rfl⟩
    | false => exact .inr (by simp [raised_run, raised_errKind, raised_errAddr, hk])
  | _ => exact .inr (by simp)

/-- Registers (R23, R37). -/
theorem Answers.getV_eq {r : Reg} (hr : ¬ WritesReg r i) : t.getV r = s.getV r := by
  cases h with
  | ldByte | addByte | ldReg | orReg | andReg | xorReg | rnd | ldVxDt | ldKKey => exact State.getV_setV_ne _ _ _ _ hr
  | addReg | subReg | subnReg | shr | shl =>
    obtain ⟨hx, hvf⟩ := not_or.1 hr
    simp [hx, hvf]
  | drw => exact State.getV_setV_ne _ _ _ _ hr
  | ldRegs x =>
    rw [State.getV_loadV, List.getElem?_eq_none, Option.getD_none]
    simpa using Nat.lt_of_not_le hr
  | _ => simp

end unchanged

/-- Only a `CALL` with a full stack and a `RET` with an empty one raise a fatal kind (R240). -/
theorem Raises.of_fatal {s : State} {i : Instr} {k : ErrKind} (h : Raises s i k) (hk : k.isFatal = true) :
    (∃ nnn, i = .call nnn) ∨ i = .ret := by
  cases h with
  | stackOverflow nnn => exact .inl ⟨nnn, rfl⟩
  | stackUnderflow => exact .inr rfl
  | outOfBounds | undefinedOpcode => cases hk

theorem Answers.latch_eq {i : Instr} {s t : State} (h : Answers s i t) (hi : ∀ nnn, i ≠ .call nnn ∧ i ≠ .ret) :
    t.run = s.run ∧ t.errKind = s.errKind ∧ t.errAddr = s.errAddr := by
  obtain ⟨k, hk, hr, -⟩ | hlatch := h.fatal_or_latch_eq
  · obtain ⟨nnn, rfl⟩ | rfl := hr.of_fatal hk
    · exact absurd rfl (hi nnn).1
    · exact absurd rfl (hi 0).2
  · exact hlatch

end Sys2Proof.Machine

namespace Sys2Proof.Spec

open Sys2Proof.Machine

/-- Settles O56: an instruction writes the registers it names. -/
theorem onlyNamedRegistersAreWritten : Obligations.OnlyNamedRegistersAreWritten := by
  unfold Obligations.OnlyNamedRegistersAreWritten
  exact fun i s t r hexec hr => (Answers.of_exec hexec).getV_eq hr

/-- Settles O57: each part, from the cases of what an instruction can answer. -/
theorem stateIsWrittenOnlyByItsInstructions : Obligations.StateIsWrittenOnlyByItsInstructions := by
  unfold Obligations.StateIsWrittenOnlyByItsInstructions
  intro i s t hexec
  have h := Answers.of_exec hexec
  exact ⟨h.i_eq, h.dt_eq, h.st_eq, h.stack_eq, fun hi => ⟨h.sp_eq hi, h.latch_eq hi⟩, h.mem_eq, h.frame_eq, h.keyq_eq,
    h.own_eq⟩

end Sys2Proof.Spec
end

section
/-! PROOF. How `pc` changes (spec 10_state.md R26), and that the draw of the cycle is an operand of `RND` alone (spec
00_scope.md R10). -/

namespace Sys2Proof.Machine

open Sys2Proof.Spec

theorem TransferOutOfRange.congr {s s' : State} {i : Instr} (h : TransferOutOfRange s i) (hi : s'.i = s.i) :
    TransferOutOfRange s' i := by
  cases i with
  | drw | ldB | stRegs | ldRegs => simpa only [TransferOutOfRange, hi] using h
  | _ => exact h.elim

/-- What is raised depends on `I` and `sp` (R240). -/
theorem Raises.congr {s s' : State} {i : Instr} {k : ErrKind} (h : Raises s i k) (hi : s'.i = s.i)
    (hsp : s'.sp = s.sp) : Raises s' i k := by
  cases h with
  | outOfBounds h => exact .outOfBounds (TransferOutOfRange.congr h hi)
  | undefinedOpcode => exact .undefinedOpcode
  | stackOverflow nnn h => exact .stackOverflow nnn (hsp ▸ h)
  | stackUnderflow h => exact .stackUnderflow (hsp ▸ h)

/-- No skip raises. -/
theorem Raises.not_skipTaken {s : State} {i : Instr} {k : ErrKind} (h : Raises s i k) : ¬ SkipTaken s i := by
  intro hs
  cases h with
  | @outOfBounds i h =>
    cases i with
    | drw | ldB | stRegs | ldRegs => exact hs.elim
    | _ => exact h.elim
  | _ => exact hs.elim

theorem Answers.pc_of_skipTaken {i : Instr} {s t : State} (h : Answers s i t) (hs : SkipTaken s i) :
    t.pc = s.pc + 2 := by
  cases h with
  | seByte | seReg => rw [State.skipIf_pc, if_pos (beq_iff_eq.2 hs)]
  | sneByte | sneReg => rw [State.skipIf_pc, if_pos (bne_iff_ne.2 hs)]
  | skpKey x hkey =>
    obtain ⟨k', rest', hkey', heq⟩ := hs
    obtain ⟨rfl, rfl⟩ := hkey.unique hkey'
    rw [State.skipIf_pc, if_pos ((zextKey_beq_iff _ _).2 heq), State.setKeyq_pc]
  | skpNone x hno =>
    obtain ⟨k, rest, hkey, -⟩ := hs
    exact absurd hno hkey.not_noKey
  | sknpKey x hkey =>
    obtain hno | ⟨k', rest', hkey', hne⟩ := hs
    · exact absurd hno hkey.not_noKey
    · obtain ⟨rfl, rfl⟩ := hkey.unique hkey'
      rw [State.skipIf_pc, if_pos ((zextKey_bne_iff _ _).2 hne), State.setKeyq_pc]
  | sknpNone => rfl
  | raise hr => exact absurd hs hr.not_skipTaken
  | _ => exact hs.elim

theorem Answers.pc_of_not_skipTaken {i : Instr} {s t : State} (h : Answers s i t) (hs : ¬ SkipTaken s i)
    (ht : ¬ Transfers i) : t.pc = s.pc := by
  cases h with
  | seByte | seReg => rw [State.skipIf_pc, if_neg fun hc => hs (beq_iff_eq.1 hc)]
  | sneByte | sneReg => rw [State.skipIf_pc, if_neg fun hc => hs (bne_iff_ne.1 hc)]
  | skpKey x hkey =>
    rw [State.skipIf_pc, if_neg fun hc => hs ⟨_, _, hkey, (zextKey_beq_iff _ _).1 hc⟩, State.setKeyq_pc]
  | sknpKey x hkey =>
    rw [State.skipIf_pc, if_neg fun hc => hs (.inr ⟨_, _, hkey, (zextKey_bne_iff _ _).1 hc⟩), State.setKeyq_pc]
  | sknpNone x hno => exact absurd (.inl hno) hs
  | jp | call | ret | jpV0 | ldKKey | ldKNone => exact absurd trivial ht
  | _ => simp

/-- The state with another byte on the `rnd` input. -/
def State.withDraw (s : State) (draw : Byte) : State := { s with rnd := draw }

theorem skipIf_withDraw (s : State) (draw : Byte) (c : Bool) :
    (s.withDraw draw).skipIf c = (s.skipIf c).withDraw draw := by cases c <;> rfl

theorem raised_withDraw (s : State) (draw : Byte) (k : ErrKind) :
    raised k (s.withDraw draw) = (raised k s).withDraw draw := by cases k <;> rfl

/-- Every instruction but `RND` commutes with a change of the draw (R10). -/
theorem Answers.exec_withDraw {i : Instr} {s t : State} (h : Answers s i t) (hi : ∀ x kk, i ≠ .rnd x kk) (draw : Byte) :
    exec i (s.withDraw draw) = .next (t.withDraw draw) := by
  cases h with
  | rnd x kk => exact absurd rfl (hi x kk)
  | ret k h => exact exec_ret_entry (s.withDraw draw) k h
  | call nnn h => exact exec_call_room nnn (s.withDraw draw) h
  | seByte | sneByte | seReg | sneReg => exact congrArg Host.Outcome.next (skipIf_withDraw s draw _)
  | drw x y n h => exact exec_drw_in x y n (s.withDraw draw) h
  | skpKey x h =>
    rw [← skipIf_withDraw]
    exact exec_skp_key x (s.withDraw draw) _ _ h.readKeyFrom_eq
  | skpNone x h => exact exec_skp_none x (s.withDraw draw) [] h.readKeyFrom_eq
  | sknpKey x h =>
    rw [← skipIf_withDraw]
    exact exec_sknp_key x (s.withDraw draw) _ _ h.readKeyFrom_eq
  | sknpNone x h => exact exec_sknp_none x (s.withDraw draw) [] h.readKeyFrom_eq
  | ldKKey x h => exact exec_ldK_key x (s.withDraw draw) _ _ h.readKeyFrom_eq
  | ldKNone x h => exact exec_ldK_none x (s.withDraw draw) [] h.readKeyFrom_eq
  | ldB x h => exact exec_ldB_in x (s.withDraw draw) h
  | stRegs x h => exact exec_stRegs_in x (s.withDraw draw) h
  | ldRegs x h => exact exec_ldRegs_in x (s.withDraw draw) h
  | raise h =>
    rw [← raised_withDraw]
    exact exec_of_raises (h.congr rfl rfl)
  | _ => rfl

end Sys2Proof.Machine

namespace Sys2Proof.Spec

open Sys2Proof.Machine

/-- Settles O43: the draw is read by `RND` alone. -/
theorem drawMattersToRndAlone : Obligations.DrawMattersToRndAlone := by
  unfold Obligations.DrawMattersToRndAlone
  exact fun i s t draw hi hexec => (Answers.of_exec hexec).exec_withDraw hi draw

/-- Settles O55: the skips and the kinds that leave `pc` from the cases of what an instruction can answer, the transfers
of control from their effects. -/
theorem pcChangesAsListed : Obligations.PcChangesAsListed := by
  unfold Obligations.PcChangesAsListed
  intro i s t hexec
  have h := Answers.of_exec hexec
  refine ⟨h.pc_of_skipTaken, h.pc_of_not_skipTaken, ?_, ?_, ?_, ?_, ?_⟩
  · rintro nnn rfl
    exact ((jumpGoesToAddress.1 nnn s).of_exec hexec).2
  · rintro nnn rfl
    refine ⟨fun hroom => ?_, fun hfull => ?_⟩
    · exact ((callPushesReturnAddress nnn s ⟨s.sp.val, hroom⟩ rfl).of_exec hexec).2.1
    · obtain rfl := Host.Outcome.next.inj (hexec.symm.trans (exec_call_full nnn s hfull))
      exact raised_pc ..
  · rintro rfl
    refine ⟨fun k hk => ((returnPopsIntoPc s k hk).of_exec hexec).2.1, fun hempty => ?_⟩
    obtain rfl := Host.Outcome.next.inj (hexec.symm.trans (exec_ret_empty s hempty))
    exact raised_pc ..
  · rintro nnn rfl
    have hpc := ((jumpV0AddsRegisterZero nnn s).of_exec hexec).2
    rw [← hpc, Nat.mod_eq_of_lt t.pc.isLt]
  · rintro x rfl
    refine ⟨fun hno => (((keyWaitTakesAKeyOrRewinds.1 x s).2 hno).of_exec hexec).2.2, fun hkey => ?_⟩
    obtain ⟨k, rest, hnext⟩ := (noKey_or_nextKey s).resolve_left hkey
    exact (((keyWaitTakesAKeyOrRewinds.1 x s).1 k rest hnext).of_exec hexec).1 .pc (by simp)

end Sys2Proof.Spec
end

section
/-! PROOF. The cycle (spec 40_cycle_and_system.md R120 to R127): what step 3 leaves is the raise of an out-of-bounds
fetch or what the fetched instruction answers, and steps 4 and 5 follow it. -/

namespace Sys2Proof.Machine

open Sys2Proof.Spec

/-- What step 3 of a running cycle with the draw `b` leaves (R122, R123). -/
inductive Dispatched (s : State) (b : Byte) : State → Prop
  | unfetched (hpc : 4094 < s.pc.toNat) : Dispatched s b (raised .outOfBounds (s.dispatchState b))
  | fetched {i : Instr} {u : State} (hi : NextInstr s i) (hexec : exec i (s.dispatchState b) = .next u) :
      Dispatched s b u

/-- A running cycle ends with steps 4 and 5 on what step 3 leaves. -/
theorem tick_dispatched (s : State) (b : Byte) (hrun : s.run = .running) :
    ∃ u, tick b s = .next u.endCycle ∧ Dispatched s b u := by
  rw [tick_running b s hrun]
  by_cases hpc : s.pc.toNat ≤ 4094
  · obtain ⟨u, hexec, -⟩ := exec_answers (decode (wordAtPc s)) (s.dispatchState b)
    refine ⟨u, ?_, .fetched ⟨hrun, hpc, rfl⟩ hexec⟩
    rw [cycle_fetched b s _ (fetch_in_range s hpc), ← wordAtPc_eq, hexec, finishCycle_next]
  · have hpc : 4094 < s.pc.toNat := by omega
    exact ⟨_, cycle_unfetched b s (fetch_out_of_range s hpc), .unfetched hpc⟩

theorem Dispatched.of_tick {s t : State} {b : Byte} (hrun : s.run = .running) (h : tick b s = .next t) :
    ∃ u, t = u.endCycle ∧ Dispatched s b u := by
  obtain ⟨u, hu, hd⟩ := tick_dispatched s b hrun
  exact ⟨u, Host.Outcome.next.inj (h.symm.trans hu), hd⟩

theorem Dispatched.of_step {s t : State} (hrun : s.run = .running) (h : step s = .next t) :
    ∃ u, t = u.endCycle ∧ Dispatched s (Config.rnd s.cycles) u := Dispatched.of_tick hrun h

@[simp] theorem dispatchState_i (s : State) (b : Byte) : (s.dispatchState b).i = s.i := rfl
@[simp] theorem dispatchState_sp (s : State) (b : Byte) : (s.dispatchState b).sp = s.sp := rfl
@[simp] theorem dispatchState_stack (s : State) (b : Byte) : (s.dispatchState b).stack = s.stack := rfl
@[simp] theorem dispatchState_mem (s : State) (b : Byte) : (s.dispatchState b).mem = s.mem := rfl
@[simp] theorem dispatchState_dirty (s : State) (b : Byte) : (s.dispatchState b).dirty = s.dirty := rfl
@[simp] theorem dispatchState_keyq (s : State) (b : Byte) : (s.dispatchState b).keyq = s.keyq := rfl
@[simp] theorem dispatchState_out (s : State) (b : Byte) : (s.dispatchState b).out = CycleOut.quiet := rfl
@[simp] theorem dispatchState_errKind (s : State) (b : Byte) : (s.dispatchState b).errKind = s.errKind := rfl
@[simp] theorem dispatchState_errAddr (s : State) (b : Byte) : (s.dispatchState b).errAddr = s.errAddr := rfl

/-- A block executes one instruction at a time. -/
theorem nextInstr_unique {s : State} {i j : Instr} (hi : NextInstr s i) (hj : NextInstr s j) : i = j :=
  hi.2.2.symm.trans hj.2.2

/-- Steps 4 and 5 as the statement of the cycle writes them (R125, R126). -/
theorem endCycle_eq_ite (s : State) : s.endCycle =
    if s.run = .running then
      { s with out := { s.out with present := s.dirty, buzz := decide (0 < s.st.toNat) }, dirty := false }
    else s := by
  cases hrun : s.run with
  | stopped => simp [State.endCycle, hrun]
  | running =>
    have hbuzz : (s.st != 0) = decide (0 < s.st.toNat) := by
      rw [Bool.eq_iff_iff, bne_iff_ne, decide_eq_true_iff]
      bv_omega
    rw [if_pos rfl, ← hbuzz, State.endCycle, hrun]

theorem out_buzz_endCycle (s : State) (hrun : s.run = .running) :
    s.endCycle.out.buzz = true ↔ 0 < s.st.toNat := by
  rw [endCycle_eq_ite, if_pos hrun, decide_eq_true_iff]

/-! ### A stopped block -/

theorem runningPort_stopped {s : State} (h : s.run = .stopped) : s.runningPort = false := by
  rw [State.runningPort, h]
  rfl

theorem presentPort_stopped {s : State} (h : s.run = .stopped) : s.presentPort = false := by
  rw [State.presentPort, runningPort_stopped h, Bool.false_and]

theorem buzzPort_stopped {s : State} (h : s.run = .stopped) : s.buzzPort = false := by
  rw [State.buzzPort, runningPort_stopped h, Bool.false_and]

/-- While stopped the ports show the latch (R246). -/
theorem shownError_stopped {s : State} (h : s.run = .stopped) :
    s.shownError = s.errKind.map fun k => (k, s.errAddr) := by
  rw [State.shownError, runningPort_stopped h, if_neg Bool.false_ne_true]

/-- While running the ports show the report of the last cycle (R246). -/
theorem shownError_running {s : State} (h : s.run = .running) : s.shownError = s.out.err := by
  rw [State.shownError, State.runningPort, h]
  rfl

theorem errPorts_of_some {s : State} {k : ErrKind} {a : Word} (h : s.shownError = some (k, a)) :
    s.errKindPort = k.code ∧ s.errAddrPort = a := by
  rw [State.errKindPort, State.errAddrPort, h]
  exact ⟨rfl, rfl⟩

theorem errPorts_of_none {s : State} (h : s.shownError = none) : s.errKindPort = 0 ∧ s.errAddrPort = 0 := by
  rw [State.errKindPort, State.errAddrPort, h]
  exact ⟨rfl, rfl⟩

end Sys2Proof.Machine

namespace Sys2Proof.Spec

open Sys2Proof.Machine

/-- Settles O13: a stopped block answers itself, a running one ends a cycle, and every instruction answers. -/
theorem everyStepAnswersNext : Obligations.EveryStepAnswersNext := by
  unfold Obligations.EveryStepAnswersNext
  refine ⟨fun s => ?_, fun i s => ?_⟩
  · cases hrun : s.run with
    | stopped => exact ⟨s, tick_stopped _ s hrun⟩
    | running =>
      obtain ⟨u, hu, -⟩ := tick_dispatched s (Config.rnd s.cycles) hrun
      exact ⟨u.endCycle, hu⟩
  · obtain ⟨t, ht, -⟩ := exec_answers i s
    exact ⟨t, ht⟩

/-- Settles O7: the state after steps 1 and 2 is the one the instruction is dispatched in. -/
theorem stepRunsDecodedInstruction : Obligations.StepRunsDecodedInstruction := by
  unfold Obligations.StepRunsDecodedInstruction
  intro s hrun hpc
  rw [step_of_nextInstr ⟨hrun, hpc, rfl⟩, show afterFetch s (Config.rnd s.cycles) = s.dispatchState _ from rfl]
  cases exec (decode (wordAtPc s)) (s.dispatchState (Config.rnd s.cycles)) with
  | next t => rw [finishCycle_next, endCycle_eq_ite]
  | fault r => rfl
  | refused r => rfl

/-- Settles O9: a stopped tick answers the state itself, and the two ports need a running block. -/
theorem stoppedTickChangesNothing : Obligations.StoppedTickChangesNothing := by
  unfold Obligations.StoppedTickChangesNothing
  exact fun s draw h => ⟨tick_stopped _ s h, tick_stopped draw s h, presentPort_stopped h, buzzPort_stopped h⟩

/-- Settles O8: the cycle is steps 1 and 2, a non-fatal raise, and steps 4 and 5. -/
theorem outOfRangeFetchIsAReportedNoOp : Obligations.OutOfRangeFetchIsAReportedNoOp := by
  unfold Obligations.OutOfRangeFetchIsAReportedNoOp
  intro s hrun hpc
  have hu : (raised .outOfBounds (s.dispatchState (Config.rnd s.cycles))).run = .running := by
    rw [raised_run, dispatchState_run, hrun]
    rfl
  refine ⟨_, (tick_running _ s hrun).trans (cycle_unfetched _ s (fetch_out_of_range s hpc)), ?_, ?_, ?_, ?_, ?_, ?_,
    State.endCycle_dirty_running _ hu, ?_⟩
  · refine ((dispatchState_onlyChanges s _).trans (d := fun p => p ∈ fetchParts)
      (raised_onlyChanges_nonfatal _ rfl) (fun _ => id) ?_).trans (endCycle_onlyChanges _) ?_ ?_
    · simp [fetchParts]
    · simp [fetchParts]
    · simp [endParts]
  · rw [State.endCycle_pc, raised_pc, dispatchState_pc, BitVec.toNat_add]
    rfl
  · rw [State.endCycle_dt, raised_dt, dispatchState_dt, decTimer_toNat]
  · rw [State.endCycle_st, raised_st, dispatchState_st, decTimer_toNat]
  · rw [State.endCycle_out_err, raised_out, dispatchState_fetchAddr]
  · rw [State.endCycle_out_running _ hu, raised_dirty, dispatchState_dirty]
  · rw [out_buzz_endCycle _ hu, State.endCycle_st]

end Sys2Proof.Spec
end

section
/-! PROOF. The timers (spec 40_cycle_and_system.md R121, R126, 46_timers.md R210 to R212): step 1 of every cycle, and
runs of cycles that do not load the timer counted. -/

namespace Sys2Proof.Machine

open Sys2Proof.Spec

/-- A cycle that does not load `DT` leaves it one less. -/
theorem Dispatched.dt_eq {s u : State} {b : Byte} (h : Dispatched s b u) (hno : ∀ x, ¬ NextInstr s (.ldDt x)) :
    u.dt = decTimer s.dt := by
  cases h with
  | unfetched => rw [raised_dt, dispatchState_dt]
  | fetched hi hexec =>
    rw [(Answers.of_exec hexec).dt_eq (by rintro x rfl; exact hno x hi), dispatchState_dt]

/-- A cycle that does not load `ST` leaves it one less. -/
theorem Dispatched.st_eq {s u : State} {b : Byte} (h : Dispatched s b u) (hno : ∀ x, ¬ NextInstr s (.ldSt x)) :
    u.st = decTimer s.st := by
  cases h with
  | unfetched => rw [raised_st, dispatchState_st]
  | fetched hi hexec =>
    rw [(Answers.of_exec hexec).st_eq (by rintro x rfl; exact hno x hi), dispatchState_st]

theorem step_dt {s t : State} (hrun : s.run = .running) (hno : ∀ x, ¬ NextInstr s (.ldDt x)) (h : step s = .next t) :
    t.dt.toNat = s.dt.toNat - 1 := by
  obtain ⟨u, rfl, hd⟩ := Dispatched.of_step hrun h
  rw [State.endCycle_dt, hd.dt_eq hno, decTimer_toNat]

theorem step_st {s t : State} (hrun : s.run = .running) (hno : ∀ x, ¬ NextInstr s (.ldSt x)) (h : step s = .next t) :
    t.st.toNat = s.st.toNat - 1 := by
  obtain ⟨u, rfl, hd⟩ := Dispatched.of_step hrun h
  rw [State.endCycle_st, hd.st_eq hno, decTimer_toNat]

end Sys2Proof.Machine

namespace Sys2Proof.Spec

open Sys2Proof.Machine

/-- A number that every step of a run takes one from, floored at 0, falls by the number of steps. -/
theorem TicksWhile.countdown {P : State → Prop} (f : State → Nat)
    (hstep : ∀ s t, s.run = .running → P s → step s = .next t → f t = f s - 1) {n : Nat} {s t : State}
    (h : TicksWhile P n s t) : f t = f s - n := by
  induction n generalizing s with
  | zero => rw [show t = s from h, Nat.sub_zero]
  | succ n ih =>
    obtain ⟨hrun, hP, u, hu, hrest⟩ := h
    rw [ih hrest, hstep s u hrun hP hu]
    omega

/-- A run of at least one tick ends with a tick. -/
theorem TicksWhile.last_tick {P : State → Prop} {n : Nat} {s t : State} (h : TicksWhile P n s t) (hn : 0 < n) :
    ∃ u, u.run = .running ∧ step u = .next t := by
  induction n generalizing s with
  | zero => exact absurd hn (Nat.lt_irrefl 0)
  | succ n ih =>
    obtain ⟨hrun, -, u, hu, hrest⟩ := h
    cases n with
    | zero => exact ⟨s, hrun, (show t = u from hrest) ▸ hu⟩
    | succ n => exact ih hrest (Nat.succ_pos n)

theorem TicksWhile.dt {n : Nat} {s t : State} (h : TicksWhile (fun u => ∀ x, ¬ NextInstr u (.ldDt x)) n s t) :
    t.dt.toNat = s.dt.toNat - n := h.countdown (·.dt.toNat) fun _ _ => step_dt

theorem TicksWhile.st {n : Nat} {s t : State} (h : TicksWhile (fun u => ∀ x, ¬ NextInstr u (.ldSt x)) n s t) :
    t.st.toNat = s.st.toNat - n := h.countdown (·.st.toNat) fun _ _ => step_st

/-- Settles O10: step 1 decrements both timers, and an instruction loads at most one of them after that. -/
theorem timersCountDownInEveryCycle : Obligations.TimersCountDownInEveryCycle := by
  unfold Obligations.TimersCountDownInEveryCycle
  refine ⟨fun s t hrun hstep => ⟨fun hno => step_dt hrun hno hstep, fun hno => step_st hrun hno hstep, ?_, ?_, ?_⟩,
    fun n s t h => h.dt, fun n s t h => h.st⟩
  · exact fun x hnext => ⟨step_ldDt hnext hstep,
      step_st hrun (fun y hy => Instr.noConfusion (nextInstr_unique hnext hy)) hstep⟩
  · exact fun x hnext => ⟨(step_ldSt hnext hstep).1,
      step_dt hrun (fun y hy => Instr.noConfusion (nextInstr_unique hnext hy)) hstep⟩
  · intro x hnext
    obtain ⟨hread, hdt⟩ := step_ldVxDt hnext hstep
    rw [hread, hdt]

/-- Settles O11: the load, `j` cycles of counting, and the count of the reading cycle itself. -/
theorem delayTimerCountsCycles : Obligations.DelayTimerCountsCycles := by
  unfold Obligations.DelayTimerCountsCycles
  intro j x y s t u v hload hstep hticks hread hstep'
  obtain ⟨hvy, hdt⟩ := step_ldVxDt hread hstep'
  rw [hvy, hdt, hticks.dt, step_ldDt hload hstep]
  omega

/-- Settles O12: the last of the cycles shows whether `ST`, counted down by all of them, is above 0. -/
theorem toneLastsLoadedCycles : Obligations.ToneLastsLoadedCycles := by
  unfold Obligations.ToneLastsLoadedCycles
  intro n s t hn hticks hrun
  obtain ⟨r, hr, hstep⟩ := hticks.last_tick hn
  have hst := hticks.st
  obtain ⟨u, rfl, -⟩ := Dispatched.of_step hr hstep
  rw [State.endCycle_run] at hrun
  rw [State.endCycle_st] at hst
  rw [buzzPort_endCycle u hrun, hst]
  omega

end Sys2Proof.Spec
end

section
/-! PROOF. Errors and the display over a cycle (spec 60_exceptions.md R240 to R253, 45_display.md R195, R196): the kind
the table raises is the kind step 3 raised, and the frame is dirty after step 3 exactly when a draw was completed. -/

namespace Sys2Proof.Spec

open Sys2Proof.Machine

/-- The table of error kinds, by the fetch and by the instruction fetched (R240). -/
theorem raisesNext_iff (s : State) (k : ErrKind) :
    RaisesNext s k ↔ (k = .outOfBounds ∧ 4094 < s.pc.toNat) ∨ ∃ i, NextInstr s i ∧ Raises s i k := by
  constructor
  · rintro (⟨rfl, hpc | ⟨i, hi, hr⟩⟩ | ⟨rfl, hi⟩ | ⟨rfl, hsp, nnn, hi⟩ | ⟨rfl, hsp, hi⟩)
    · exact .inl ⟨rfl, hpc⟩
    · exact .inr ⟨i, hi, .outOfBounds hr⟩
    · exact .inr ⟨_, hi, .undefinedOpcode⟩
    · exact .inr ⟨_, hi, .stackOverflow nnn hsp⟩
    · exact .inr ⟨_, hi, .stackUnderflow hsp⟩
  · rintro (⟨rfl, hpc⟩ | ⟨i, hi, hr⟩)
    · exact .inl ⟨rfl, .inl hpc⟩
    · cases hr with
      | outOfBounds hr => exact .inl ⟨rfl, .inr ⟨i, hi, hr⟩⟩
      | undefinedOpcode => exact .inr (.inl ⟨rfl, hi⟩)
      | stackOverflow nnn hsp => exact .inr (.inr (.inl ⟨rfl, hsp, nnn, hi⟩))
      | stackUnderflow hsp => exact .inr (.inr (.inr ⟨rfl, hsp, hi⟩))

end Sys2Proof.Spec

namespace Sys2Proof.Machine

open Sys2Proof.Spec

/-- Step 3 leaves the raise of the kind the table names. -/
theorem Dispatched.eq_raised {s u : State} {b : Byte} {k : ErrKind} (h : Dispatched s b u) (hk : RaisesNext s k) :
    u = raised k (s.dispatchState b) := by
  cases h with
  | unfetched hpc =>
    obtain ⟨rfl, -⟩ | ⟨i, ⟨-, hle, -⟩, -⟩ := (raisesNext_iff s k).1 hk
    · rfl
    · omega
  | fetched hi hexec =>
    obtain ⟨-, hpc⟩ | ⟨j, hj, hr⟩ := (raisesNext_iff s k).1 hk
    · exact absurd hi.2.1 (by omega)
    · obtain rfl := nextInstr_unique hi hj
      exact Host.Outcome.next.inj (hexec.symm.trans (exec_of_raises (hr.congr rfl rfl)))

/-- An instruction that raises nothing reports nothing and leaves the block running. -/
theorem Answers.quiet {i : Instr} {s t : State} (h : Answers s i t) (hno : ∀ k, ¬ Raises s i k) :
    t.out = s.out ∧ t.run = s.run := by
  cases h with
  | raise hr => exact absurd hr (hno _)
  | _ => simp

theorem Dispatched.quiet {s u : State} {b : Byte} (h : Dispatched s b u) (hno : ∀ k, ¬ RaisesNext s k) :
    u.out = CycleOut.quiet ∧ u.run = s.run := by
  cases h with
  | unfetched hpc => exact absurd ((raisesNext_iff s _).2 (.inl ⟨rfl, hpc⟩)) (hno _)
  | fetched hi hexec =>
    exact (Answers.of_exec hexec).quiet fun k hr => hno k ((raisesNext_iff s k).2 (.inr ⟨_, hi, hr.congr rfl rfl⟩))

/-- Step 3 stops the block by a fatal raise of the table alone, and otherwise leaves run state and latch (R250). -/
theorem Dispatched.fatal_or_latch_eq {s u : State} {b : Byte} (h : Dispatched s b u) :
    (∃ k, k.isFatal = true ∧ RaisesNext s k ∧ u = raised k (s.dispatchState b)) ∨
      (u.run = s.run ∧ u.errKind = s.errKind ∧ u.errAddr = s.errAddr) := by
  cases h with
  | unfetched => exact .inr (by simp [raised_run, raised_errKind, raised_errAddr, ErrKind.isFatal])
  | fetched hi hexec =>
    obtain ⟨k, hk, hr, heq⟩ | hlatch := (Answers.of_exec hexec).fatal_or_latch_eq
    · exact .inl ⟨k, hk, (raisesNext_iff s k).2 (.inr ⟨_, hi, hr.congr rfl rfl⟩), heq⟩
    · exact .inr hlatch

/-- The cycle of a raise shows its kind and the fetch address, while running and once stopped (R246). -/
theorem shownError_raised (s : State) (b : Byte) (k : ErrKind) (hrun : s.run = .running) :
    (raised k (s.dispatchState b)).endCycle.shownError = some (k, s.pc) := by
  cases hk : k.isFatal with
  | true =>
    rw [shownError_stopped (by simp [raised_run, hk])]
    simp [raised_errKind, raised_errAddr, hk]
  | false =>
    rw [shownError_running (by simp [raised_run, hk, hrun]), State.endCycle_out_err, raised_out,
      dispatchState_fetchAddr]

/-- The frame is dirty after an instruction exactly when it completed a draw (R192, R193). -/
theorem Answers.dirty_iff {i : Instr} {s t : State} (h : Answers s i t) (hclear : s.dirty = false) :
    t.dirty = true ↔ i = .cls ∨ ∃ x y n, i = .drw x y n ∧ ¬ TransferOutOfRange s (.drw x y n) := by
  cases h with
  | cls => simp
  | drw x y n hr =>
    have hin : ¬ TransferOutOfRange s (.drw x y n) := by
      simp only [TransferOutOfRange]
      omega
    exact ⟨fun _ => .inr ⟨x, y, n, rfl, hin⟩, fun _ => rfl⟩
  | raise hr =>
    rw [raised_dirty, hclear]
    refine ⟨fun h => absurd h Bool.false_ne_true, ?_⟩
    rintro (rfl | ⟨x, y, n, rfl, hin⟩)
    · cases hr with | outOfBounds h => exact h.elim
    · cases hr with | outOfBounds h => exact absurd h hin
  | _ => simp [hclear]

/-- After step 3 of a cycle on a clean frame the frame is dirty exactly when the cycle completed a draw. -/
theorem Dispatched.dirty_iff {s u : State} {b : Byte} (h : Dispatched s b u) (hclear : s.dirty = false) :
    u.dirty = true ↔ NextInstr s .cls ∨ ∃ x y n, NextInstr s (.drw x y n) ∧ ¬ TransferOutOfRange s (.drw x y n) := by
  cases h with
  | unfetched hpc =>
    have hno (i : Instr) : ¬ NextInstr s i := fun hi => absurd hi.2.1 (by omega)
    simp [hno, hclear]
  | @fetched i u hi hexec =>
    have hiff (j : Instr) : NextInstr s j ↔ i = j := ⟨nextInstr_unique hi, fun hij => hij ▸ hi⟩
    simp only [hiff]
    exact (Answers.of_exec hexec).dirty_iff hclear

/-- What a cycle shows as `present` is the dirt step 3 left, a fatal error included, which leaves none (R125, R250). -/
theorem Dispatched.present_eq {s u : State} {b : Byte} (h : Dispatched s b u) (hrun : s.run = .running)
    (hclear : s.dirty = false) : u.endCycle.out.present = u.dirty ∧ u.endCycle.dirty = false := by
  obtain ⟨k, hk, -, rfl⟩ | ⟨hlatch, -⟩ := h.fatal_or_latch_eq
  · rw [State.endCycle_stopped _ (by rw [raised_run, if_pos hk]), raised_out, raised_dirty, dispatchState_dirty, hclear]
    exact ⟨rfl, rfl⟩
  · have hu : u.run = .running := hlatch.trans hrun
    exact ⟨by rw [State.endCycle_out_running u hu], State.endCycle_dirty_running u hu⟩

end Sys2Proof.Machine

namespace Sys2Proof.Spec

open Sys2Proof.Machine

/-- Settles O14: `present` is the dirt step 3 left, and only a completed draw leaves any. -/
theorem presentExactlyOnCompletedDraws : Obligations.PresentExactlyOnCompletedDraws := by
  unfold Obligations.PresentExactlyOnCompletedDraws
  intro s t hinv hrun hstep
  obtain ⟨u, rfl, hd⟩ := Dispatched.of_step hrun hstep
  obtain ⟨hpresent, hdirty⟩ := hd.present_eq hrun hinv.dirty_clear
  rw [hpresent]
  exact ⟨hdirty, hd.dirty_iff hinv.dirty_clear⟩

/-- Settles O58: a kind of the table is the one step 3 raised, and with none the cycle stays quiet. -/
theorem errorsAreReportedExactlyWhenRaised : Obligations.ErrorsAreReportedExactlyWhenRaised := by
  unfold Obligations.ErrorsAreReportedExactlyWhenRaised
  intro s t hrun hstep
  obtain ⟨u, rfl, hd⟩ := Dispatched.of_step hrun hstep
  refine ⟨fun k hk => ?_, fun hno => ?_⟩
  · obtain rfl := hd.eq_raised hk
    refine ⟨?_, errPorts_of_some (shownError_raised s _ k hrun)⟩
    rw [State.endCycle_out_err, raised_out, dispatchState_fetchAddr]
  · obtain ⟨hout, hu⟩ := hd.quiet hno
    have herr : u.endCycle.out.err = none := by rw [State.endCycle_out_err, hout]; rfl
    exact ⟨herr, errPorts_of_none ((shownError_running (by rw [State.endCycle_run, hu, hrun])).trans herr)⟩

/-- Settles O59: only a fatal raise stops the block, and the fatal kinds are two. -/
theorem onlyStackErrorsStopTheBlock : Obligations.OnlyStackErrorsStopTheBlock := by
  unfold Obligations.OnlyStackErrorsStopTheBlock
  intro s t hrun hstep
  obtain ⟨u, rfl, hd⟩ := Dispatched.of_step hrun hstep
  have stops (k : ErrKind) (hk : k.isFatal = true) (hr : RaisesNext s k) : u.endCycle.run = .stopped := by
    rw [State.endCycle_run, hd.eq_raised hr, raised_run, if_pos hk]
  refine ⟨fun hstop => ?_, fun h => h.elim (stops _ rfl) (stops _ rfl)⟩
  obtain ⟨k, hk, hr, -⟩ | ⟨hlatch, -⟩ := hd.fatal_or_latch_eq
  · cases k with
    | stackOverflow => exact .inl hr
    | stackUnderflow => exact .inr hr
    | outOfBounds | undefinedOpcode => cases hk
  · rw [State.endCycle_run, hlatch, hrun] at hstop
    cases hstop

/-- Settles O34: the cycle is steps 1 and 2 and a fatal raise, after which steps 4 and 5 do nothing. -/
theorem fatalErrorsStopAndLatch : Obligations.FatalErrorsStopAndLatch := by
  unfold Obligations.FatalErrorsStopAndLatch
  intro s i k hcase hnext
  obtain ⟨hr, hk⟩ : Raises s i k ∧ k.isFatal = true := by
    obtain ⟨⟨nnn, rfl⟩, hsp, rfl⟩ | ⟨rfl, hsp, rfl⟩ := hcase
    · exact ⟨.stackOverflow nnn hsp, rfl⟩
    · exact ⟨.stackUnderflow hsp, rfl⟩
  obtain ⟨d, hd⟩ : ∃ d, d = s.dispatchState (Config.rnd s.cycles) := ⟨_, rfl⟩
  have hstop : (raised k d).run = .stopped := by rw [raised_run, if_pos hk]
  have hkind : (raised k d).errKind = some k := by rw [raised_errKind, if_pos hk]
  have haddr : (raised k d).errAddr = s.pc := by rw [raised_errAddr, if_pos hk, hd, dispatchState_fetchAddr]
  have hexec : exec i d = .next (raised k d) := exec_of_raises (hr.congr (by rw [hd]; rfl) (by rw [hd]; rfl))
  have hstep : step s = .next (raised k d) := by
    rw [step_of_nextInstr hnext, ← hd, hexec, finishCycle_next, State.endCycle_stopped _ hstop]
  refine ⟨_, hstep, ?_, ?_, ?_, ?_, hstop, hkind, haddr, ?_, ?_, ?_, runningPort_stopped hstop,
    errPorts_of_some (by rw [shownError_stopped hstop, hkind, haddr]; rfl)⟩
  · rw [hd]
    exact (dispatchState_onlyChanges s _).trans (raised_onlyChanges_fatal _ hk) (by simp [fetchParts]) (by simp)
  · rw [raised_pc, hd, dispatchState_pc]
  · rw [raised_dt, hd, dispatchState_dt, decTimer_toNat]
  · rw [raised_st, hd, dispatchState_st, decTimer_toNat]
  · rw [raised_out, hd, dispatchState_out]; rfl
  · rw [raised_out, hd, dispatchState_out]; rfl
  · rw [State.fatalPort, hkind]; rfl

end Sys2Proof.Spec
end

section
/-! PROOF. The invariant (spec 10_state.md R40) and the host's events (70_reset_and_hazards.md R280 to R287): each
clause is about parts that few instructions and few events write. -/

namespace Sys2Proof.Machine

open Sys2Proof.Spec

/-! ### What step 3 does to the parts the invariant speaks of -/

/-- Instructions take symbols from the queue and add none (R222). -/
theorem Answers.keyq_length_le {i : Instr} {s t : State} (h : Answers s i t) : t.keyq.length ≤ s.keyq.length := by
  have shorter {k : Keycode} {rest : List KeySymbol} (hkey : NextKey s k rest) : rest.length ≤ s.keyq.length := by
    simpa [hkey.readKeyFrom_eq] using readKeyFrom_length_le keymap s.keyq
  cases h with
  | ldKKey x hkey | skpKey x hkey => simpa using shorter hkey
  | sknpKey x hkey => simpa using shorter hkey
  | _ => simp

/-- The two stores keep the canonical form, and nothing else writes memory (R66). -/
theorem Answers.mem_wf {i : Instr} {s t : State} (h : Answers s i t) (hwf : Memory.wf s.mem = true) :
    Memory.wf t.mem = true := by
  cases h with
  | ldB x hr => exact Memory.wf_writeAll _ _ _ hr hwf
  | stRegs x hr => exact Memory.wf_writeAll _ _ _ (by rw [regsTo_length]; exact hr) hwf
  | _ => simpa using hwf

/-- The used entries of the stack are at most 0x1000. -/
def StackBounded (s : State) : Prop := ∀ k : Fin 16, k.val < s.sp.val → s.stack[k].toNat ≤ 0x1000

theorem StackBounded.congr {s t : State} (h : StackBounded s) (hstack : t.stack = s.stack) (hsp : t.sp = s.sp) :
    StackBounded t := fun k hk => by
  simp only [hstack]
  exact h k (hsp ▸ hk)

/-- A push adds the `pc` of the instruction, and a pop takes an entry away (R142). -/
theorem Answers.stackBounded {i : Instr} {s t : State} (h : Answers s i t) (hs : StackBounded s)
    (hpc : s.pc.toNat ≤ 0x1000) : StackBounded t := by
  cases h with
  | call nnn hroom =>
    intro k hk
    simp only [State.setPc_stack, State.setStack_stack, Fin.getElem_fin, Vector.getElem_set]
    split
    · exact hpc
    · exact hs k (by simp only [State.setPc_sp, State.setStack_sp] at hk; omega)
  | ret j hj =>
    intro k hk
    simp only [State.setPc_sp, State.setStack_sp, Fin.val_castSucc] at hk
    exact hs k (by omega)
  | _ => exact hs.congr (by simp) (by simp)

theorem Inv.stackBounded {s : State} (h : Inv s) : StackBounded s := h.stack_le

/-! ### A cycle keeps the invariant -/

section cycle
variable {s u : State} {b : Byte} (h : Dispatched s b u)
include h

theorem Dispatched.keyq_length_le : u.keyq.length ≤ s.keyq.length := by
  cases h with
  | unfetched => simp
  | fetched hi hexec => exact (Answers.of_exec hexec).keyq_length_le

theorem Dispatched.mem_wf (hwf : Memory.wf s.mem = true) : Memory.wf u.mem = true := by
  cases h with
  | unfetched => simpa using hwf
  | fetched hi hexec => exact (Answers.of_exec hexec).mem_wf hwf

/-- The `pc` a `CALL` pushes was fetched at or below 4094 and advanced by 2. -/
theorem Dispatched.stackBounded (hs : StackBounded s) : StackBounded u := by
  cases h with
  | unfetched => exact hs.congr (by simp) (by simp)
  | fetched hi hexec =>
    obtain ⟨-, hpc, -⟩ := hi
    refine (Answers.of_exec hexec).stackBounded hs ?_
    rw [dispatchState_pc, pc_add_two_toNat s hpc]
    omega

/-- A cycle latches a fatal kind and stops, or latches nothing (R250). -/
theorem Dispatched.latch (hnone : s.errKind = none) (haddr : s.errAddr = 0) :
    (∀ k, u.errKind = some k → k.isFatal = true) ∧ (u.errKind ≠ none → u.run = .stopped) ∧
      (u.errKind = none → u.errAddr = 0) := by
  obtain ⟨k, hk, -, rfl⟩ | ⟨-, hkind, haddr'⟩ := h.fatal_or_latch_eq
  · simp [raised_errKind, raised_run, hk]
  · simp [hkind, hnone, haddr', haddr]

end cycle

/-- A running block has nothing latched. -/
theorem Inv.errKind_eq_none {s : State} (hinv : Inv s) (hrun : s.run = .running) : s.errKind = none :=
  by_contra fun h => by simpa [hrun] using hinv.latch_stops h

/-- A tick with any draw keeps the invariant. -/
theorem Inv.tick {s t : State} {b : Byte} (hinv : Inv s) (htick : tick b s = .next t) : Inv t := by
  cases hrun : s.run with
  | stopped =>
    obtain rfl := Host.Outcome.next.inj ((tick_stopped b s hrun).symm.trans htick)
    exact hinv
  | running =>
    have hnone := hinv.errKind_eq_none hrun
    obtain ⟨u, rfl, hd⟩ := Dispatched.of_tick hrun htick
    obtain ⟨hfatal, hstops, haddr⟩ := hd.latch hnone (hinv.latch_addr hnone)
    exact
      { keyq_le := by simpa using hd.keyq_length_le.trans hinv.keyq_le
        dirty_clear := (hd.present_eq hrun hinv.dirty_clear).2
        mem_wf := by simpa using hd.mem_wf hinv.mem_wf
        stack_le := (hd.stackBounded hinv.stackBounded).congr u.endCycle_stack u.endCycle_sp
        latch_fatal := by simpa using hfatal
        latch_stops := by simpa using hstops
        latch_addr := by simpa using haddr }

/-! ### The host's events -/

theorem inv_reset : Inv State.reset where
  keyq_le := Nat.zero_le _
  dirty_clear := rfl
  mem_wf := Memory.wf_reset
  stack_le := fun _ hk => absurd hk (Nat.not_lt_zero _)
  latch_fatal := fun _ h => nomatch h
  latch_stops := fun h => absurd rfl h
  latch_addr := fun _ => rfl

theorem hostStep_loadProgram_stopped {s : State} (h : s.run = .stopped) (bytes : List Byte) :
    hostStep (.loadProgram bytes) s = .refused .loadWhileStopped := by
  simp [hostStep, h]

theorem hostStep_loadProgram_late {s : State} (h : s.run = .running) (hc : 0 < s.cycles) (bytes : List Byte) :
    hostStep (.loadProgram bytes) s = .refused .loadAfterFirstTick := by
  simp [hostStep, h, Nat.ne_of_gt hc]

theorem hostStep_loadProgram_first {s : State} (h : s.run = .running) (hc : s.cycles = 0) (bytes : List Byte) :
    hostStep (.loadProgram bytes) s = .next (s.loadProgram bytes) := by
  simp [hostStep, h, hc]

/-- A load that is answered is the copy. -/
theorem hostStep_loadProgram_next {s t : State} {bytes : List Byte} (h : hostStep (.loadProgram bytes) s = .next t) :
    t = s.loadProgram bytes := by
  cases hrun : s.run with
  | stopped => cases (hostStep_loadProgram_stopped hrun bytes).symm.trans h
  | running =>
    obtain hc | hc := Nat.eq_zero_or_pos s.cycles
    · exact Host.Outcome.next.inj (h.symm.trans (hostStep_loadProgram_first hrun hc bytes))
    · cases (hostStep_loadProgram_late hrun hc bytes).symm.trans h

/-- Every event keeps the invariant: each but the tick writes one part of the state. -/
theorem Inv.hostStep {e : HostEvent} {s t : State} (hinv : Inv s) (h : hostStep e s = .next t) : Inv t := by
  cases e with
  | reset =>
    obtain rfl := Host.Outcome.next.inj h
    exact inv_reset
  | loadProgram bytes =>
    obtain rfl := hostStep_loadProgram_next h
    exact { hinv with mem_wf := loadProgram_wf s bytes hinv.mem_wf }
  | tick b => exact hinv.tick h
  | cancel =>
    obtain rfl := Host.Outcome.next.inj h
    exact { hinv with latch_stops := fun _ => rfl }
  | keyPush symbols =>
    obtain rfl := Host.Outcome.next.inj h
    exact { hinv with keyq_le := pushSymbols_length_le keybufCap s.keyq symbols }

/-- What every event keeps, a sequence of events keeps. -/
theorem Inv.runEvents {es : List HostEvent} {s t : State} (hinv : Inv s) (h : runEvents es s = .next t) : Inv t := by
  induction es generalizing s with
  | nil =>
    obtain rfl := Host.Outcome.next.inj h
    exact hinv
  | cons e es ih =>
    rw [Machine.runEvents] at h
    cases he : Machine.hostStep e s with
    | next u => exact ih (hinv.hostStep he) (by simpa [he] using h)
    | fault r => simp [he] at h
    | refused r => simp [he] at h

theorem cancel_of_stopped {s : State} (h : s.run = .stopped) : s.cancel = s := by
  rw [State.cancel, ← h]

/-- No event but `Reset` does more to a stopped block than change its key queue (R258, R262). -/
theorem hostStep_of_stopped {e : HostEvent} {s t : State} (hrun : s.run = .stopped) (he : e ≠ .reset)
    (h : hostStep e s = .next t) : ∃ q, t = s.setKeyq q := by
  cases e with
  | reset => exact absurd rfl he
  | loadProgram bytes => cases (hostStep_loadProgram_stopped hrun bytes).symm.trans h
  | tick b => exact ⟨s.keyq, Host.Outcome.next.inj (h.symm.trans (tick_stopped b s hrun))⟩
  | cancel => exact ⟨s.keyq, (Host.Outcome.next.inj h).symm.trans (cancel_of_stopped hrun)⟩
  | keyPush symbols => exact ⟨_, (Host.Outcome.next.inj h).symm⟩

/-! ### The key queue (R221) -/

theorem pushSymbols_length {α : Type} (cap : Nat) (q symbols : List α) :
    (pushSymbols cap q symbols).length = min (q.length + symbols.length) cap := by
  simp only [pushSymbols, List.length_drop, List.length_append]
  omega

/-- What a push drops is the oldest. -/
theorem pushSymbols_suffix {α : Type} (cap : Nat) (q symbols : List α) :
    ∃ dropped, dropped ++ pushSymbols cap q symbols = q ++ symbols :=
  ⟨_, List.take_append_drop _ _⟩

/-- A queue cut to its last `cap` and then pushed to is the longer queue pushed to. -/
theorem pushSymbols_drop {α : Type} (cap n : Nat) (q symbols : List α) (hn : n ≤ q.length - cap) :
    pushSymbols cap (q.drop n) symbols = pushSymbols cap q symbols := by
  rw [pushSymbols, pushSymbols, ← List.drop_append_of_le_length (by omega), List.drop_drop, List.length_drop]
  congr 1
  simp only [List.length_append]
  omega

theorem pushSymbols_cons {α : Type} (cap : Nat) (q symbols : List α) (u : α) :
    pushSymbols cap q (u :: symbols) = pushSymbols cap (pushSymbols cap q [u]) symbols := by
  rw [pushSymbols.eq_1 cap q [u], pushSymbols_drop _ _ _ _ le_rfl]
  simp [pushSymbols]

end Sys2Proof.Machine

namespace Sys2Proof.Spec

open Sys2Proof.Machine

/-- Settles O16: nothing is queued, used, listed or latched after reset. -/
theorem resetMeetsInvariant : Obligations.ResetMeetsInvariant := by
  unfold Obligations.ResetMeetsInvariant
  exact inv_reset

/-- Settles O17: a step is a tick with the free draw. -/
theorem stepKeepsInvariant : Obligations.StepKeepsInvariant := by
  unfold Obligations.StepKeepsInvariant
  exact fun s t hinv hstep => hinv.tick hstep

/-- Settles O18: one event by cases, a sequence by induction from reset. -/
theorem hostEventsKeepInvariant : Obligations.HostEventsKeepInvariant := by
  unfold Obligations.HostEventsKeepInvariant
  exact ⟨fun e s t hinv h => hinv.hostStep h, fun t ⟨es, h⟩ => inv_reset.runEvents h⟩

/-- Settles O15: an unlisted byte reads as its reset contents, and the rest is the reset state's literal. -/
theorem resetValues : Obligations.ResetValues := by
  unfold Obligations.ResetValues
  have replicate_get {α : Type} (a : α) (k : Fin 16) : (Vector.replicate 16 a)[k] = a := Vector.getElem_replicate k.isLt
  exact ⟨replicate_get 0, rfl, rfl, rfl, rfl, replicate_get 0, rfl, resetByte_eq, font_fits, pixelAt_blank, rfl, rfl,
    rfl, rfl, rfl⟩

/-- Settles O19: a stopped block keeps its run state through every other event. -/
theorem onlyResetLeavesStopped : Obligations.OnlyResetLeavesStopped := by
  unfold Obligations.OnlyResetLeavesStopped
  refine ⟨fun e s t hrun h ht => by_contra fun he => ?_, fun e s t hrun he h => ?_,
    fun s bytes hrun => hostStep_loadProgram_stopped hrun bytes, fun s => rfl, fun cancel tick draw => ⟨rfl, rfl⟩⟩
  · obtain ⟨q, rfl⟩ := hostStep_of_stopped hrun he h
    exact RunState.noConfusion (hrun.symm.trans ht)
  · obtain ⟨q, rfl⟩ := hostStep_of_stopped hrun he h
    exact setKeyq_onlyChanges s q

theorem cancel_onlyChanges (s : State) : OnlyChanges (fun p => p = .run) s s.cancel := by
  intro p hp
  cases p with
  | run => exact absurd rfl hp
  | _ => rfl

/-- Settles O20: `Cancel` writes `run`, and a running block has no error latched. -/
theorem cancelStopsWithoutError : Obligations.CancelStopsWithoutError := by
  unfold Obligations.CancelStopsWithoutError
  intro s hinv hrun
  have hnone := hinv.errKind_eq_none hrun
  have hstop : s.cancel.run = .stopped := rfl
  refine ⟨s.cancel, rfl, hstop, cancel_onlyChanges s, ?_, ?_, runningPort_stopped hstop⟩
  · rw [State.fatalPort, State.cancel_errKind, hnone]
    rfl
  · exact (errPorts_of_none (by rw [shownError_stopped hstop, State.cancel_errKind, hnone]; rfl)).1

theorem length_take_loadCount (bytes : List Byte) : (bytes.take (loadCount bytes)).length = loadCount bytes := by
  rw [List.length_take]
  exact Nat.min_eq_left (Nat.min_le_left _ _)

/-- Settles O21: the load is a write in ascending order of the bytes that fit. -/
theorem loadProgramCopiesWhatFits : Obligations.LoadProgramCopiesWhatFits := by
  unfold Obligations.LoadProgramCopiesWhatFits
  intro s bytes
  refine ⟨fun hrun hc => hostStep_loadProgram_late hrun hc bytes, fun hrun hc =>
    ⟨s.loadProgram bytes, hostStep_loadProgram_first hrun hc bytes, rfl, ?_, fun k hk => ?_⟩⟩
  · refine (writeAll_onlyChanges s _ _).mono ?_
    rintro p ⟨a, rfl, hlo, hhi⟩
    rw [length_take_loadCount] at hhi
    have hbase : Config.progBase = 0x200 := rfl
    exact ⟨a - 0x200, by omega, congrArg Part.mem (by omega)⟩
  · rw [← List.getElem?_take_of_lt hk]
    exact Memory.read_writeAll_at _ _ _ k (by rw [length_take_loadCount]; exact hk)

/-- Settles O22: the queue is `pushSymbols`, in every state. -/
theorem keyPushKeepsMostRecent : Obligations.KeyPushKeepsMostRecent := by
  unfold Obligations.KeyPushKeepsMostRecent
  exact fun s symbols => ⟨⟨s.keyPush symbols, rfl, setKeyq_onlyChanges s _, pushSymbols_length _ _ _,
    pushSymbols_suffix _ _ _⟩, fun u => pushSymbols_cons keybufCap s.keyq symbols u⟩

/-- Settles O60: a latched error means a stopped block, whose events change the queue alone, which no port shows. -/
theorem portsHoldFatalErrorUntilReset : Obligations.PortsHoldFatalErrorUntilReset := by
  unfold Obligations.PortsHoldFatalErrorUntilReset
  intro e s t k hinv hk he h
  have hrun : s.run = .stopped := hinv.latch_stops (by rw [hk]; exact Option.some_ne_none k)
  obtain ⟨q, rfl⟩ := hostStep_of_stopped hrun he h
  have hstop : (s.setKeyq q).run = .stopped := hrun
  obtain ⟨hkind, haddr⟩ := errPorts_of_some (s := s.setKeyq q) (k := k) (a := s.errAddr)
    (by rw [shownError_stopped hstop, State.setKeyq_errKind, hk]; rfl)
  refine ⟨hkind, haddr, ?_, runningPort_stopped hstop, presentPort_stopped hstop, buzzPort_stopped hstop⟩
  rw [State.fatalPort, State.setKeyq_errKind, hk]
  rfl

end Sys2Proof.Spec
end
